-- ==== Sys2Proof/Word.lean ====
section
/-! DEFINITION. The word types of the core (00_scope.md R10 to R12). -/

namespace Sys2Proof

/-- A command or result word: 32 bits (R10). -/
abbrev Word := BitVec 32

/-- One byte of a serialised word; the core itself never splits a word (R66). -/
abbrev Byte := BitVec 8

/-- An IEEE 754 binary32 value as its 32 bits: bit 31 the sign, bits 30 to 23 the biased exponent, bits 22 to 0 the
fraction (R12, R66). Its arithmetic is in `Machine/Float.lean`. -/
abbrev F32 := BitVec 32

/-- An F32 register that may be UNWRITTEN; `none` is the spec's UNWRITTEN, "holds no value" (R13, R50). -/
abbrev Reg := Option F32

/-- The 15 bits of the noise shift register, bits 14 to 0 (R36). -/
abbrev Lfsr := BitVec 15

end Sys2Proof
end

