-- ==== Sys2Proof/Config.lean ====
section
/-! DEFINITION. The implementation parameters of 00_scope.md R9 as one record. The values this core fixes are
`Config.core` in `Machine/Constants.lean`. -/

namespace Sys2Proof

/-- The literals of the pseudocode other than +0.0 (10_state.md R49, R52). What each stands for is fixed
(`Literal.ratio`): "Fixed constants are not parameters" (R9). -/
inductive Literal where
  | half
  | one
  | two
  | three
  | four
  | volThreshold
  | clampHi
  | clampLo
  | directGain
  | weightTone
  | weightNoise
  | weightSample
  | weightSum
  | cutoff0
  | cutoff1
  | cutoff2
  | pi
  deriving DecidableEq, Repr

/-- A decimal number, exact: a sign and a quotient of naturals. -/
structure Ratio where
  neg : Bool
  num : Nat
  den : Nat
  deriving DecidableEq, Repr

/-- Parameter NUM_FMT: a number format with its rounding, as the operations of R12 on the words that hold its values
(R9; 92_eei_decisions.md D2: another format changes bit patterns, "The shapes of the rules do not"). A value fills one
32-bit word and the zero word is +0.0 in every format (DESIGN CHOICE, log 11). -/
structure NumFmt where
  add       : F32 → F32 → F32
  sub       : F32 → F32 → F32
  mul       : F32 → F32 → F32
  div       : F32 → F32 → F32
  fmod      : F32 → F32 → F32
  neg       : F32 → F32
  /-- `f32(k)` -/
  ofNat     : Nat → F32
  /-- the floor of the exact quotient, where it is a natural -/
  floorQuot : F32 → F32 → Option Nat
  lt        : F32 → F32 → Bool
  le        : F32 → F32 → Bool
  isFinite  : F32 → Bool
  isInf     : F32 → Bool
  /-- the value nearest to a decimal (R12); the format rounds a literal, it does not choose one -/
  nearest   : Ratio → F32
  /-- the exact value of a word that is finite -/
  value     : F32 → ℚ

/-- Which bit 0 the noise average counts: the one an advance shifts out, or the one after the shift (R9, R135). -/
inductive SamplePoint where
  | preShift
  | postShift
  deriving DecidableEq, Repr

/-- What a queue does on a full queue (R65). -/
inductive OverflowPolicy where
  | grow
  | dropOldest
  deriving DecidableEq, Repr

/-- The byte order of a transport that serialises words (R66). -/
inductive ByteOrder where
  | little
  | big
  deriving DecidableEq, Repr

/-- The parameters the model takes as arguments (R9). `qLimit = none` is "unbounded". -/
structure Config where
  num            : NumFmt
  cos            : F32 → F32
  lfsrSeed       : Lfsr
  samplePoint    : SamplePoint
  overflowPolicy : OverflowPolicy
  qCap           : Nat
  qLimit         : Option Nat
  nMax           : Nat
  byteOrder      : ByteOrder

end Sys2Proof
end

