-- ==== Sys2Proof/Syntax.lean ====
section
/-! DEFINITION. The commands of the core, one constructor per row of the opcode table (30_encoding.md R84). -/

namespace Sys2Proof

/-- The six channels a tag names (R83). -/
inductive Channel where
  | p1
  | p2
  | tri
  | noise
  | smp
  | dsmp
  deriving DecidableEq, Repr

/-- The ten commands with their operands. An F32 operand is the raw operand word, any of the 2^32 patterns (R81, R87). -/
inductive Instr where
  | init (sr : F32)
  | clear
  | mix
  | get (ch : Channel)
  | setfreq (ch : Channel) (hz : F32)
  | setvol (ch : Channel) (v : F32)
  | setduty (ch : Channel) (d : F32)
  | setmetal (b : Bool)
  | addsample (s : F32)
  | adddirect (p s : F32)
  deriving DecidableEq, Repr

end Sys2Proof
end

