-- ==== Sys2Proof/WellFormed.lean ====
section
/-! DEFINITION. What a command term must satisfy beyond its types: the channel SETDUTY allows (30_encoding.md R84, R86
item 3). Every other operand is unrestricted: "Operand values are not checked by the decoder" (R87). -/

namespace Sys2Proof

/-- P1 and P2 are the pulse channels, the only ones SETDUTY names (R84). -/
def Channel.isPulse : Channel → Bool
  | .p1 => true
  | .p2 => true
  | .tri => false
  | .noise => false
  | .smp => false
  | .dsmp => false

/-- A command that some legal header stands for (R85). -/
def Instr.wellFormed : Instr → Bool
  | .init _ => true
  | .clear => true
  | .mix => true
  | .get _ => true
  | .setfreq _ _ => true
  | .setvol _ _ => true
  | .setduty ch _ => ch.isPulse
  | .setmetal _ => true
  | .addsample _ => true
  | .adddirect _ _ => true

end Sys2Proof
end

