-- ==== Sys2Proof/Decode.lean ====
section
/-! DEFINITION. Command encoding: decoder, then encoder, from 30_encoding.md R80 to R88, and the byte form a transport
uses (20_memory.md R66). -/

namespace Sys2Proof

/-! ## Header fields (R80) -/

/-- OP, H[31:28]. -/
def headerOp (h : Word) : BitVec 4 := h.extractLsb' 28 4

/-- CH, H[27:25]. -/
def headerCh (h : Word) : BitVec 3 := h.extractLsb' 25 3

/-- RSV, H[24:1]. -/
def headerRsv (h : Word) : BitVec 24 := h.extractLsb' 1 24

/-- B, H[0]. -/
def headerB (h : Word) : Bool := h.getLsbD 0

/-! ## Opcodes and channel tags (R83, R84) -/

/-- The ten opcodes that are not reserved (R84). -/
inductive Opcode where
  | init
  | clear
  | mix
  | get
  | setfreq
  | setvol
  | setduty
  | setmetal
  | addsample
  | adddirect
  deriving DecidableEq, Repr

/-- The OP column of R84. -/
def Opcode.code : Opcode → BitVec 4
  | .init => 0x1#4
  | .clear => 0x2#4
  | .mix => 0x3#4
  | .get => 0x4#4
  | .setfreq => 0x5#4
  | .setvol => 0x6#4
  | .setduty => 0x7#4
  | .setmetal => 0x8#4
  | .addsample => 0x9#4
  | .adddirect => 0xA#4

/-- OP read back; `none` for the reserved values 0x0 and 0xB to 0xF (R86 item 1). -/
def Opcode.ofCode (op : BitVec 4) : Option Opcode :=
  if op = 0x1#4 then some .init
  else if op = 0x2#4 then some .clear
  else if op = 0x3#4 then some .mix
  else if op = 0x4#4 then some .get
  else if op = 0x5#4 then some .setfreq
  else if op = 0x6#4 then some .setvol
  else if op = 0x7#4 then some .setduty
  else if op = 0x8#4 then some .setmetal
  else if op = 0x9#4 then some .addsample
  else if op = 0xA#4 then some .adddirect
  else none

/-- How many operand words follow the header (R84, R82). -/
def Opcode.operands : Opcode → Nat
  | .init => 1
  | .clear => 0
  | .mix => 0
  | .get => 0
  | .setfreq => 1
  | .setvol => 1
  | .setduty => 1
  | .setmetal => 0
  | .addsample => 1
  | .adddirect => 2

/-- Operand words of the command a header begins: "The OP field alone fixes the length"; "A reserved OP counts as
length 1" (R82). -/
def operandCount (h : Word) : Nat :=
  match Opcode.ofCode (headerOp h) with
  | some op => op.operands
  | none => 0

/-- Length of the command in words (R82). -/
def commandLength (h : Word) : Nat := 1 + operandCount h

/-- The CH value of a channel (R83). -/
def Channel.tag : Channel → BitVec 3
  | .p1 => 0#3
  | .p2 => 1#3
  | .tri => 2#3
  | .noise => 3#3
  | .smp => 4#3
  | .dsmp => 5#3

/-- CH read back; `none` for the reserved tags 6 and 7 (R83). -/
def Channel.ofTag (ch : BitVec 3) : Option Channel :=
  if ch = 0#3 then some .p1
  else if ch = 1#3 then some .p2
  else if ch = 2#3 then some .tri
  else if ch = 3#3 then some .noise
  else if ch = 4#3 then some .smp
  else if ch = 5#3 then some .dsmp
  else none

/-! ## Decoder (R85 to R88) -/

/-- Why a header is illegal: the six items of R86. -/
inductive Illegal where
  /-- item 1: OP = 0x0 or 0xB to 0xF -/
  | reservedOpcode
  /-- item 2: GET, SETFREQ or SETVOL with CH = 6 or 7 -/
  | reservedChannel
  /-- item 3: SETDUTY with CH not 0 or 1 -/
  | notPulseChannel
  /-- item 4: a command that takes no channel with CH not 0 -/
  | strayChannel
  /-- item 5: a nonzero RSV bit -/
  | reservedBits
  /-- item 6: B = 1 in any command but SETMETAL -/
  | strayBool
  deriving DecidableEq, Repr

/-- CH must be 0 where the command takes no channel (R80, R86 item 4). -/
def noChannel (h : Word) : Except Illegal Unit :=
  if headerCh h = 0#3 then .ok () else .error .strayChannel

/-- B must be 0 in every command but SETMETAL (R80, R86 item 6). -/
def noBool (h : Word) : Except Illegal Unit :=
  if headerB h then .error .strayBool else .ok ()

/-- CH in 0..5 (R84, R86 item 2). -/
def anyChannel (h : Word) : Except Illegal Channel :=
  match Channel.ofTag (headerCh h) with
  | some ch => .ok ch
  | none => .error .reservedChannel

/-- CH in 0, 1 (R84, R86 item 3). -/
def pulseChannel (h : Word) : Except Illegal Channel :=
  match Channel.ofTag (headerCh h) with
  | some ch => if ch.isPulse then .ok ch else .error .notPulseChannel
  | none => .error .notPulseChannel

/-- The command of a header with RSV = 0 and opcode `op`, its operand words being `a` and then `b` (R84, R88). -/
def decodeOpcode (op : Opcode) (h : Word) (a b : F32) : Except Illegal Instr :=
  match op with
  | .init => do noChannel h; noBool h; .ok (.init a)
  | .clear => do noChannel h; noBool h; .ok .clear
  | .mix => do noChannel h; noBool h; .ok .mix
  | .get => do let ch ← anyChannel h; noBool h; .ok (.get ch)
  | .setfreq => do let ch ← anyChannel h; noBool h; .ok (.setfreq ch a)
  | .setvol => do let ch ← anyChannel h; noBool h; .ok (.setvol ch a)
  | .setduty => do let ch ← pulseChannel h; noBool h; .ok (.setduty ch a)
  | .setmetal => do noChannel h; .ok (.setmetal (headerB h))
  | .addsample => do noChannel h; noBool h; .ok (.addsample a)
  | .adddirect => do noChannel h; noBool h; .ok (.adddirect a b)

/-- The command of header `h` with operand words `a`, `b`; whether it is legal depends on `h` alone (R88). -/
def decodeCommand (h : Word) (a b : F32) : Except Illegal Instr :=
  if headerRsv h = 0#24 then
    match Opcode.ofCode (headerOp h) with
    | some op => decodeOpcode op h a b
    | none => .error .reservedOpcode
  else .error .reservedBits

/-- Why no command is read from the port. -/
inductive DecodeError where
  /-- no word has been delivered -/
  | noWords
  /-- a header stands there and some of its operand words have not been delivered (R67) -/
  | incomplete
  /-- all the words of a command with illegal header `h` have been delivered; `rest` follows them (R86) -/
  | illegal (h : Word) (why : Illegal) (rest : List Word)
  deriving DecidableEq, Repr

/-- The command at the head of the delivered words, and the words after it (R82, R86, R88). Total on any words. -/
def decode : List Word → Except DecodeError (Instr × List Word)
  | [] => .error .noWords
  | h :: ws =>
    if ws.length < operandCount h then .error .incomplete
    else
      match decodeCommand h (ws.getD 0 0#32) (ws.getD 1 0#32) with
      | .ok i => .ok (i, ws.drop (operandCount h))
      | .error why => .error (.illegal h why (ws.drop (operandCount h)))

/-! ## Encoder (R80, R81, R84) -/

/-- A header word from its fields: OP || CH || RSV = 0 || B (R80). -/
def header (op : Opcode) (ch : BitVec 3) (b : Bool) : Word :=
  op.code ++ ch ++ 0#24 ++ BitVec.ofBool b

/-- The opcode of a command (R84). -/
def Instr.opcode : Instr → Opcode
  | .init _ => .init
  | .clear => .clear
  | .mix => .mix
  | .get _ => .get
  | .setfreq _ _ => .setfreq
  | .setvol _ _ => .setvol
  | .setduty _ _ => .setduty
  | .setmetal _ => .setmetal
  | .addsample _ => .addsample
  | .adddirect _ _ => .adddirect

/-- The header word of a command (R80, R83, R84). -/
def headerOf : Instr → Word
  | .init _ => header .init 0#3 false
  | .clear => header .clear 0#3 false
  | .mix => header .mix 0#3 false
  | .get ch => header .get ch.tag false
  | .setfreq ch _ => header .setfreq ch.tag false
  | .setvol ch _ => header .setvol ch.tag false
  | .setduty ch _ => header .setduty ch.tag false
  | .setmetal b => header .setmetal 0#3 b
  | .addsample _ => header .addsample 0#3 false
  | .adddirect _ _ => header .adddirect 0#3 false

/-- The operand words of a command, A and then B (R81, R84). -/
def operandWords : Instr → List Word
  | .init sr => [sr]
  | .clear => []
  | .mix => []
  | .get _ => []
  | .setfreq _ hz => [hz]
  | .setvol _ v => [v]
  | .setduty _ d => [d]
  | .setmetal _ => []
  | .addsample s => [s]
  | .adddirect p s => [p, s]

/-- The words of a command: header, then operands (R80, R81). -/
def encode (i : Instr) : List Word := headerOf i :: operandWords i

/-! ## Match and mask (R85) -/

/-- One row of R85; `channelLimit` is the extra condition H[27:25] <= 5. -/
structure OpcodeRow where
  opcode       : Opcode
  pattern      : Word
  mask         : Word
  channelLimit : Bool
  deriving DecidableEq, Repr

/-- The table of R85. -/
def opcodeRows : List OpcodeRow :=
  [ ⟨.init, 0x10000000#32, 0xFFFFFFFF#32, false⟩,
    ⟨.clear, 0x20000000#32, 0xFFFFFFFF#32, false⟩,
    ⟨.mix, 0x30000000#32, 0xFFFFFFFF#32, false⟩,
    ⟨.get, 0x40000000#32, 0xF1FFFFFF#32, true⟩,
    ⟨.setfreq, 0x50000000#32, 0xF1FFFFFF#32, true⟩,
    ⟨.setvol, 0x60000000#32, 0xF1FFFFFF#32, true⟩,
    ⟨.setduty, 0x70000000#32, 0xFDFFFFFF#32, false⟩,
    ⟨.setmetal, 0x80000000#32, 0xFFFFFFFE#32, false⟩,
    ⟨.addsample, 0x90000000#32, 0xFFFFFFFF#32, false⟩,
    ⟨.adddirect, 0xA0000000#32, 0xFFFFFFFF#32, false⟩ ]

/-- "H selects mnemonic M exactly when (H AND mask_M) = match_M and the CH value is in M's allowed set" (R85). -/
def OpcodeRow.selects (r : OpcodeRow) (h : Word) : Bool :=
  decide (h &&& r.mask = r.pattern) && (!r.channelLimit || decide ((headerCh h).toNat ≤ 5))

/-! ## The words of a table row, and the byte form of a word -/

/-- The words of an instruction numbered as the opcode table numbers its bits: bit 0 is the least significant bit of
the first word, every bit from `nbits` up is 0. Three words, the longest command (R84). -/
def tableWords (nbits w : Nat) : List Word :=
  let v := w % 2 ^ nbits
  [BitVec.ofNat 32 v, BitVec.ofNat 32 (v / 2 ^ 32), BitVec.ofNat 32 (v / 2 ^ 64)]

/-- What the decoder reads from such an instruction. -/
def decodeTableWord (nbits w : Nat) : Option Instr :=
  match decode (tableWords nbits w) with
  | .ok (i, _) => some i
  | .error _ => none

/-- The bytes of a word in transport order, first byte first (R66, V72). -/
def wordToBytes (o : ByteOrder) (w : Word) : List Byte :=
  let bytes := [w.extractLsb' 0 8, w.extractLsb' 8 8, w.extractLsb' 16 8, w.extractLsb' 24 8]
  match o with
  | .little => bytes
  | .big => bytes.reverse

/-- The word that four transport bytes make (R66). -/
def bytesToWord (o : ByteOrder) (b0 b1 b2 b3 : Byte) : Word :=
  match o with
  | .little => b3 ++ b2 ++ b1 ++ b0
  | .big => b0 ++ b1 ++ b2 ++ b3

/-- The whole words in a byte stream, and the bytes of a last word not yet complete (R66, R67). -/
def wordsOfBytes (o : ByteOrder) : List Byte → List Word × List Byte
  | b0 :: b1 :: b2 :: b3 :: bs =>
    let (ws, left) := wordsOfBytes o bs
    (bytesToWord o b0 b1 b2 b3 :: ws, left)
  | bs => ([], bs)

end Sys2Proof
end

