-- ==== Sys2Proof/Machine/Float.lean ====
section
/-! DEFINITION. IEEE 754 binary32 arithmetic, round to nearest even, one rounding an operation, subnormals kept
(00_scope.md R12, decisions D2, D5, D40, D41).

Every finite F32 is a whole number of UNITS of 2^-149. An operation converts its operands to whole numbers, computes
exactly, and narrows once with `roundMag`. The rules for NaN, infinities and the signs of zeros are those of IEEE 754,
which R12 names without repeating them (PRESUMED, log 17). A NaN result has one bit pattern (DESIGN CHOICE, log 5); no
register ever receives it, because every NaN result faults (R265). -/

namespace Sys2Proof.F32

/-! ## Fields and classes -/

/-- The 31 bits below the sign, as a number. Larger means larger magnitude; infinity is `infMag`, NaNs lie above it. -/
def magBits (x : F32) : Nat := x.toNat % 2147483648

/-- Bit 31, the sign (R66). -/
def signBit (x : F32) : Bool := decide (2147483648 ≤ x.toNat)

/-- Magnitude bits of infinity: exponent field 255, fraction 0. -/
def infMag : Nat := 0x7F800000

/-- Exponent field 255 with a nonzero fraction. -/
def isNaN (x : F32) : Bool := decide (infMag < magBits x)

/-- Plus or minus infinity. -/
def isInf (x : F32) : Bool := decide (magBits x = infMag)

/-- Neither NaN nor infinite. -/
def isFinite (x : F32) : Bool := decide (magBits x < infMag)

/-- Plus or minus zero. -/
def isZero (x : F32) : Bool := decide (magBits x = 0)

/-- Magnitude of a finite value in units of 2^-149: the fraction alone below exponent field 1, else 2^23 plus the
fraction, shifted by the exponent field less 1. On infinity it exceeds that of every finite value. -/
def magUnits (x : F32) : Nat :=
  if magBits x / 8388608 = 0 then magBits x % 8388608
  else (8388608 + magBits x % 8388608) * 2 ^ (magBits x / 8388608 - 1)

/-- The value of a finite F32 in units of 2^-149. -/
def units (x : F32) : Int := if signBit x then -(magUnits x : Int) else (magUnits x : Int)

/-! ## Construction and rounding -/

/-- An F32 from a sign and its 31 magnitude bits. -/
def pack (neg : Bool) (mag : Nat) : F32 := BitVec.ofNat 32 (if neg then 2147483648 + mag else mag)

/-- The NaN pattern this model gives to an invalid operation (log 5). -/
def nan : F32 := 0x7FC00000#32

/-- How far the quotient `num / den`, in units, must be shifted down to leave a significand of 24 bits. -/
def roundShift (num den : Nat) : Nat := Nat.log2 (num / den) - 23

/-- `num / (den * 2^k)` to the nearest whole number, a tie to the even one. -/
def roundQuotient (num den k : Nat) : Nat :=
  let d := den * 2 ^ k
  let m := num / d
  let r := num % d
  if d < 2 * r then m + 1
  else if 2 * r = d then m + m % 2
  else m

/-- Magnitude bits of the F32 nearest to `num / den` units (`den > 0`), ties to even, overflow to infinity. The shift
`k` and the rounded significand `m` add up as `k * 2^23 + m`: a carry out of the significand moves into the exponent. -/
def roundMag (num den : Nat) : Nat :=
  let k := roundShift num den
  min (k * 8388608 + roundQuotient num den k) infMag

/-- The F32 nearest to a signed whole number of units. -/
def ofUnits (z : Int) : F32 := pack (decide (z < 0)) (roundMag z.natAbs 1)

/-! ## Arithmetic (R12) -/

/-- `-x` flips the sign bit (R12). -/
def neg (x : F32) : F32 := x ^^^ 0x80000000#32

/-- Binary32 addition. An exact zero sum is +0.0 unless both operands are negative zeros. -/
def add (a b : F32) : F32 :=
  if isNaN a || isNaN b then nan
  else if isInf a then (if isInf b && (signBit a != signBit b) then nan else a)
  else if isInf b then b
  else if units a + units b = 0 then pack (signBit a && signBit b) 0
  else ofUnits (units a + units b)

/-- Binary32 subtraction, a + (-b). -/
def sub (a b : F32) : F32 := add a (neg b)

/-- Binary32 multiplication: the product of two numbers of units counts units of 2^-298. -/
def mul (a b : F32) : F32 :=
  if isNaN a || isNaN b then nan
  else if isInf a || isInf b then
    (if isZero a || isZero b then nan else pack (signBit a != signBit b) infMag)
  else pack (signBit a != signBit b) (roundMag (magUnits a * magUnits b) (2 ^ 149))

/-- Binary32 division. -/
def div (a b : F32) : F32 :=
  if isNaN a || isNaN b then nan
  else if isInf a then (if isInf b then nan else pack (signBit a != signBit b) infMag)
  else if isInf b then pack (signBit a != signBit b) 0
  else if isZero b then (if isZero a then nan else pack (signBit a != signBit b) infMag)
  else pack (signBit a != signBit b) (roundMag (magUnits a * 2 ^ 149) (magUnits b))

/-- `fmod(a, b)`: "the IEEE 754 truncated remainder a - trunc(a/b)*b, computed exactly" (R12). A zero result keeps the
sign of `a`, as in C (log 17). -/
def fmod (a b : F32) : F32 :=
  if isNaN a || isNaN b || isInf a || isZero b then nan
  else if isInf b then a
  else pack (signBit a) (roundMag (magUnits a % magUnits b) 1)

/-- `f32(k)`: a natural to F32 with round to nearest even (R12, D41). -/
def ofNat (k : Nat) : F32 := pack false (roundMag (k * 2 ^ 149) 1)

/-- `floor_exact(a / b)`: "the floor of the exact real quotient of two F32 values, as a natural" (R12); `none` where
there is no such natural (`b` not positive or `a` negative, which no run reaches; log 7). -/
def floorQuot (a b : F32) : Option Nat :=
  if units b ≤ 0 ∨ units a < 0 then none else some (magUnits a / magUnits b)

/-- The F32 nearest to a decimal `num / den` with a sign (R12 "means the F32 value nearest to it"; R90). -/
def ofRatio (neg : Bool) (num den : Nat) : F32 := pack neg (roundMag (num * 2 ^ 149) den)

/-! ## Comparisons (R12: "-0.0 equals +0.0, and NaN compares false") -/

/-- IEEE `a < b`. -/
def lt (a b : F32) : Bool := !isNaN a && !isNaN b && decide (units a < units b)

/-- IEEE `a <= b`. -/
def le (a b : F32) : Bool := !isNaN a && !isNaN b && decide (units a ≤ units b)

/-- IEEE `a > b`. -/
def gt (a b : F32) : Bool := lt b a

/-- IEEE `a >= b`. -/
def ge (a b : F32) : Bool := le b a

end Sys2Proof.F32
end

