-- ==== Sys2Proof/Machine/Cosine.lean ====
section
/-! DEFINITION. The parameter COS of this core: "correctly rounded cosine", binary32 to binary32 (00_scope.md R9, D4).

The spec names the function and no method. This one halves the angle 512 times, takes 1 - cos y = y^2/2 there, and
doubles back by 1 - cos 2y = 2 (1 - cos y) (2 - (1 - cos y)) in fixed point with 1323 fraction bits; then it rounds once
to binary32. The fixed-point value lies within 2^-250 of the cosine (PRESUMED, log 6), so the result is the correctly
rounded one unless the cosine is that near to the middle between two F32 values. -/

namespace Sys2Proof

/-- Fraction bits of the fixed point: 2 * 149 for the square of a number of units, 2 * 512 for the halvings, 1 for the
half in y^2/2. -/
def cosScale : Nat := 1323

/-- One doubling of the angle on `d = 1 - cos y`: `2 d (2 - d)`, rounded down. -/
def cosDouble (d : Nat) : Nat := d * (2 ^ (cosScale + 1) - d) / 2 ^ (cosScale - 1)

/-- `k` doublings. -/
def cosDoubles : Nat → Nat → Nat
  | 0, d => d
  | k + 1, d => cosDoubles k (cosDouble d)

/-- `1 - cos x` in fixed point, for `x` of magnitude `n` units of 2^-149: with y = x / 2^512, y^2/2 is exactly `n^2`
steps of 2^-1323. -/
def oneMinusCos (n : Nat) : Nat := cosDoubles 512 (n * n)

/-- `cos x` in fixed point. -/
def cosFixed (n : Nat) : Int := (2 ^ cosScale : Nat) - (oneMinusCos n : Int)

/-- COS: the cosine of a finite F32, rounded once to binary32. No rule applies it to a value that is not finite (R265);
there it is NaN. -/
def cosF32 (x : F32) : F32 :=
  if F32.isFinite x then
    F32.ofRatio (decide (cosFixed (F32.magUnits x) < 0)) (cosFixed (F32.magUnits x)).natAbs (2 ^ cosScale)
  else F32.nan

end Sys2Proof
end

