-- ==== Sys2Proof/Machine/Constants.lean ====
section
/-! DEFINITION. The fixed constants of 10_state.md R49 and R52, and the parameter values of 00_scope.md R9. -/

namespace Sys2Proof

/-- VOL_THRESHOLD, 0.01. -/
def volThreshold : F32 := 0x3C23D70A#32
/-- CLAMP_HI, 0.999. -/
def clampHi : F32 := 0x3F7FBE77#32
/-- CLAMP_LO, -0.999. -/
def clampLo : F32 := 0xBF7FBE77#32
/-- DIRECT_GAIN, 2.5. -/
def directGain : F32 := 0x40200000#32
/-- W_P1, W_P2, W_TRI, 0.5. -/
def weightTone : F32 := 0x3F000000#32
/-- W_NOISE, 1.0. -/
def weightNoise : F32 := 0x3F800000#32
/-- W_SMP, W_DSMP, 1.5. -/
def weightSample : F32 := 0x3FC00000#32
/-- W_SUM, 5.5. -/
def weightSum : F32 := 0x40B00000#32
/-- FC0, 90. -/
def cutoff0 : F32 := 0x42B40000#32
/-- FC1, 440. -/
def cutoff1 : F32 := 0x43DC0000#32
/-- FC2, 14000. -/
def cutoff2 : F32 := 0x465AC000#32
/-- PI. -/
def piF32 : F32 := 0x40490FDB#32

/-- 0.5 (R52). -/
def fHalf : F32 := 0x3F000000#32
/-- 1.0 (R52). -/
def fOne : F32 := 0x3F800000#32
/-- 2.0 (R52). -/
def fTwo : F32 := 0x40000000#32
/-- 3.0 (R52). -/
def fThree : F32 := 0x40400000#32
/-- 4.0 (R52). -/
def fFour : F32 := 0x40800000#32
/-- +0.0 (R52). -/
def fZero : F32 := 0x00000000#32

/-- What each literal stands for, in every format: the source's fixed constants (R49; "fixed reference values to
reproduce", 00_scope.md R9; 93 U18: other weights, cutoffs or constants are refused). PI is written out to 40 decimals
(DEDUCED, log 11: they decide the nearest binary32 value; `NumFmt.Valid` asks a format for the value nearest to pi). -/
def Literal.ratio : Literal → Ratio
  | .half => ⟨false, 1, 2⟩
  | .one => ⟨false, 1, 1⟩
  | .two => ⟨false, 2, 1⟩
  | .three => ⟨false, 3, 1⟩
  | .four => ⟨false, 4, 1⟩
  | .volThreshold => ⟨false, 1, 100⟩
  | .clampHi => ⟨false, 999, 1000⟩
  | .clampLo => ⟨true, 999, 1000⟩
  | .directGain => ⟨false, 5, 2⟩
  | .weightTone => ⟨false, 1, 2⟩
  | .weightNoise => ⟨false, 1, 1⟩
  | .weightSample => ⟨false, 3, 2⟩
  | .weightSum => ⟨false, 11, 2⟩
  | .cutoff0 => ⟨false, 90, 1⟩
  | .cutoff1 => ⟨false, 440, 1⟩
  | .cutoff2 => ⟨false, 14000, 1⟩
  | .pi => ⟨false, 31415926535897932384626433832795028841972, 10 ^ 40⟩

/-- A literal in a format: the format's value nearest to it (R12, R52). -/
def NumFmt.lit (f : NumFmt) (l : Literal) : F32 := f.nearest l.ratio

/-- The binary32 pattern of each literal (R49, R52); `binary32_lit` in Laws/Ops.lean proves that rounding gives it. -/
def binary32Literal : Literal → F32
  | .half => fHalf
  | .one => fOne
  | .two => fTwo
  | .three => fThree
  | .four => fFour
  | .volThreshold => volThreshold
  | .clampHi => clampHi
  | .clampLo => clampLo
  | .directGain => directGain
  | .weightTone => weightTone
  | .weightNoise => weightNoise
  | .weightSample => weightSample
  | .weightSum => weightSum
  | .cutoff0 => cutoff0
  | .cutoff1 => cutoff1
  | .cutoff2 => cutoff2
  | .pi => piF32

/-- The reference value of NUM_FMT: binary32, round to nearest even (R9, D2). -/
def NumFmt.binary32 : NumFmt where
  add := F32.add
  sub := F32.sub
  mul := F32.mul
  div := F32.div
  fmod := F32.fmod
  neg := F32.neg
  ofNat := F32.ofNat
  floorQuot := F32.floorQuot
  lt := F32.lt
  le := F32.le
  isFinite := F32.isFinite
  isInf := F32.isInf
  nearest := fun r => F32.ofRatio r.neg r.num r.den
  value := fun x => (F32.units x : ℚ) / 2 ^ 149

/-- The value this spec fixes for each parameter of the reference core (R9). -/
def Config.core : Config where
  num := NumFmt.binary32
  cos := cosF32
  lfsrSeed := 0x0001#15
  samplePoint := .preShift
  overflowPolicy := .grow
  qCap := 256
  qLimit := none
  nMax := 2147483647
  byteOrder := .little

end Sys2Proof
end

