-- ==== Sys2Proof/Machine/State.lean ====
section
/-! DEFINITION. The state of the core (10_state.md R23 to R45, 20_memory.md R61 and R62, the ports of 30_encoding.md R89
and 20_memory.md R67), the reasons a step can stop, and the state after power-on reset (70_reset_and_hazards.md R290).
There is no program counter, register file, condition code, mode or memory (R20 to R22, R60, R269). -/

namespace Sys2Proof.Machine

/-- The registers P1, P2, TRI, NOISE and SMP share (R28). `none` is UNWRITTEN. -/
structure Phasor where
  /-- G.PHASE, seconds into the current period (R29) -/
  phase : F32
  /-- G.PERIOD, the active period (R30) -/
  period : Reg
  /-- G.NEXT_PERIOD, pending (R31) -/
  nextPeriod : Reg
  /-- G.VOLUME, active (R32) -/
  volume : F32
  /-- G.NEXT_VOLUME, pending (R33) -/
  nextVolume : Reg
  /-- G.OUT (R34) -/
  out : F32
  deriving DecidableEq, Repr

/-- P1 or P2: the shared registers, DUTY and NEXT_DUTY (R35). -/
structure Pulse where
  acc : Phasor
  duty : Reg
  nextDuty : Reg
  deriving DecidableEq, Repr

/-- NOISE: the shared registers, LFSR (R36), METALLIC (R38) and ACC (R39). -/
structure Noise where
  acc : Phasor
  lfsr : Lfsr
  metallic : Bool
  average : F32
  deriving DecidableEq, Repr

/-- SMP: the shared registers, SMPQ with its oldest sample first (R40, R62), H_PREV and H_CUR (R41). -/
structure Smp where
  acc : Phasor
  queue : List F32
  hPrev : F32
  hCur : F32
  deriving DecidableEq, Repr

/-- An entry of DQ, or the entry DSMP.CUR holds: its own period and its sample value (R42). -/
structure Entry where
  period : F32
  value : F32
  deriving DecidableEq, Repr

/-- DSMP.CUR: IDLE or ENTRY(p, v) (R44). -/
inductive Current where
  | idle
  | entry (e : Entry)
  deriving DecidableEq, Repr

/-- DSMP: it has no PERIOD and no NEXT_PERIOD (R28). DQ has its oldest entry first (R42, R62). -/
structure Dsmp where
  phase : F32
  volume : F32
  nextVolume : Reg
  out : F32
  queue : List Entry
  hPrev : F32
  hCur : F32
  cur : Current
  deriving DecidableEq, Repr

/-- F0 or F1 (R45): SR, FC, ALPHA, X_PREV, Y_PREV. -/
structure HighPass where
  sr : Reg
  fc : Reg
  alpha : Reg
  xPrev : F32
  yPrev : F32
  deriving DecidableEq, Repr

/-- F2 (R45): SR, FC, ALPHA, Y_PREV. -/
structure LowPass where
  sr : Reg
  fc : Reg
  alpha : Reg
  yPrev : F32
  deriving DecidableEq, Repr

/-- The whole state of the core and of its two ports. -/
structure State where
  /-- INIT_DONE (R23) -/
  initDone : Bool
  /-- INV_SR (R24) -/
  invSr : Reg
  /-- FAULT_VALID (R25) -/
  faultValid : Bool
  /-- FAULT_CAUSE (R26) -/
  faultCause : BitVec 4
  /-- FAULT_HDR (R27) -/
  faultHdr : Word
  p1 : Pulse
  p2 : Pulse
  tri : Phasor
  noise : Noise
  smp : Smp
  dsmp : Dsmp
  f0 : HighPass
  f1 : HighPass
  f2 : LowPass
  /-- The command port: words delivered and not yet performed, oldest first, from all agents in the one total order of
  R70 (R67, R82; DESIGN CHOICE, log 1). -/
  port : List Word
  /-- The result port: the result words produced, oldest first (R89; DESIGN CHOICE that they are kept, log 3). -/
  results : List F32
  deriving DecidableEq, Repr

/-- Why `step` performs no command. Neither is a fault of the spec (those are next states, `takeFault`); both are the
spec's "stuck: no step is possible" (93 U21). Raised by `step` only. Safe: the model stops where the hardware waits. -/
inductive Fault where
  /-- The command port holds no word: the core is idle (R273, R306: a step is a command). Safe. -/
  | portIdle
  /-- The port holds a header and not yet all its operand words: "The model has no step for it" (R67). Safe. -/
  | commandIncomplete
  deriving DecidableEq, Repr

/-- Why an instruction has no meaning. -/
inductive Refusal where
  /-- Raised by an arm of `exec` whose instruction has not been modelled yet. Safe. No arm raises it now. -/
  | notModelled (mnemonic : String)
  deriving DecidableEq, Repr

/-- The shared registers at power-on (R290). -/
def Phasor.powerOn : Phasor where
  phase := fZero
  period := none
  nextPeriod := none
  volume := fZero
  nextVolume := none
  out := fZero

/-- P1 or P2 at power-on (R290). -/
def Pulse.powerOn : Pulse where
  acc := Phasor.powerOn
  duty := none
  nextDuty := none

/-- F0 or F1 at power-on (R290). -/
def HighPass.powerOn : HighPass where
  sr := none
  fc := none
  alpha := none
  xPrev := fZero
  yPrev := fZero

/-- The core after power-on reset with parameters `c` (R290). -/
def State.powerOn (c : Config) : State where
  initDone := false
  invSr := none
  faultValid := false
  faultCause := 0#4
  faultHdr := 0x00000000#32
  p1 := Pulse.powerOn
  p2 := Pulse.powerOn
  tri := Phasor.powerOn
  noise := { acc := Phasor.powerOn, lfsr := c.lfsrSeed, metallic := false, average := fZero }
  smp := { acc := Phasor.powerOn, queue := [], hPrev := fZero, hCur := fZero }
  dsmp :=
    { phase := fZero, volume := fZero, nextVolume := none, out := fZero, queue := [], hPrev := fZero, hCur := fZero,
      cur := .idle }
  f0 := HighPass.powerOn
  f1 := HighPass.powerOn
  f2 := { sr := none, fc := none, alpha := none, yPrev := fZero }
  port := []
  results := []

/-- The machine right after power-on reset (R290), with this core's parameters. -/
def State.reset : State := State.powerOn Config.core

end Sys2Proof.Machine
end

