-- ==== Sys2Proof/Machine/Flags.lean ====
section
/-! DEFINITION. Status bits. The core has no condition codes or arithmetic flags; its status bits are INIT_DONE and
FAULT_VALID, with FAULT_CAUSE and FAULT_HDR beside them (10_state.md R22 to R27), seen on sideband outputs
(00_scope.md R8, 60_exceptions.md R272). Here too are the cause codes of 60_exceptions.md R261. -/

namespace Sys2Proof.Machine

/-- The causes a command can raise (R261). -/
inductive Cause where
  | illegalCommand
  | notInitialised
  | badSampleRate
  | badFrequency
  | badVolume
  | badDuty
  | badSample
  | badDirectPeriod
  | unwrittenParam
  | countOverflow
  | queueOverflow
  | numeric
  deriving DecidableEq, Repr

/-- The code of a cause (R261). 0 is NONE; 13 to 15 are reserved and never written. -/
def Cause.code : Cause → BitVec 4
  | .illegalCommand => 1#4
  | .notInitialised => 2#4
  | .badSampleRate => 3#4
  | .badFrequency => 4#4
  | .badVolume => 5#4
  | .badDuty => 6#4
  | .badSample => 7#4
  | .badDirectPeriod => 8#4
  | .unwrittenParam => 9#4
  | .countOverflow => 10#4
  | .queueOverflow => 11#4
  | .numeric => 12#4

/-- The sideband status outputs (R8, R272). -/
structure Sideband where
  initDone : Bool
  faultValid : Bool
  faultCause : BitVec 4
  faultHdr : Word
  deriving DecidableEq, Repr

/-- What the host reads on the sideband; no command is needed (R8). -/
def State.sideband (s : State) : Sideband where
  initDone := s.initDone
  faultValid := s.faultValid
  faultCause := s.faultCause
  faultHdr := s.faultHdr

/-- FAULT_OUT, "equal to FAULT_VALID" (R264). -/
def State.faultOut (s : State) : Bool := s.faultValid

end Sys2Proof.Machine
end

