-- ==== Sys2Proof/Machine/Ops.lean ====
section
/-! DEFINITION. The operations every command is made of: arithmetic that faults on a non-finite result (60_exceptions.md
R265), reading a register that may be UNWRITTEN (00_scope.md R13, 10_state.md R50), the queues (20_memory.md R63 to R65),
the result port (30_encoding.md R89), taking a fault (60_exceptions.md R264, R267) and the command port.

A command's body is a function to `Except Cause State`: `.error c` is the pseudocode's `raise Fault(c)`. There is no
return from a fault (R267); only power-on reset leaves one. -/

namespace Sys2Proof.Machine

/-! ## Checked arithmetic (R265) -/

/-- "Any F32 operation ... whose result is NaN, +infinity or -infinity raises Fault(NUMERIC)" (R265). -/
def numeric (c : Config) (r : F32) : Except Cause F32 :=
  if c.num.isFinite r then .ok r else .error .numeric

/-- `a + b` in pseudocode. -/
def fadd (c : Config) (a b : F32) : Except Cause F32 := numeric c (c.num.add a b)

/-- `a - b` in pseudocode. -/
def fsub (c : Config) (a b : F32) : Except Cause F32 := numeric c (c.num.sub a b)

/-- `a * b` in pseudocode. -/
def fmul (c : Config) (a b : F32) : Except Cause F32 := numeric c (c.num.mul a b)

/-- `a / b` in pseudocode. -/
def fdiv (c : Config) (a b : F32) : Except Cause F32 := numeric c (c.num.div a b)

/-- `-a` in pseudocode. A finite operand never faults (log 8). -/
def fneg (c : Config) (a : F32) : Except Cause F32 := numeric c (c.num.neg a)

/-- `fmod(a, b)` in pseudocode. -/
def ffmod (c : Config) (a b : F32) : Except Cause F32 := numeric c (c.num.fmod a b)

/-- `f32(k)` in pseudocode. -/
def ffromNat (c : Config) (k : Nat) : Except Cause F32 := numeric c (c.num.ofNat k)

/-- `COS(x)` in pseudocode. -/
def fcos (c : Config) (x : F32) : Except Cause F32 := numeric c (c.cos x)

/-- `floor_exact(a / b)` in pseudocode. Where the quotient is no natural it faults NUMERIC (log 7). -/
def floorExact (c : Config) (a b : F32) : Except Cause Nat :=
  match c.num.floorQuot a b with
  | some n => .ok n
  | none => .error .numeric

/-! ## Registers that may be UNWRITTEN -/

/-- `read_written`: the value, or Fault(UNWRITTEN_PARAM) (R13, R50). -/
def readWritten (r : Reg) : Except Cause F32 :=
  match r with
  | some v => .ok v
  | none => .error .unwrittenParam

/-- INIT_DONE must be 1 (R262); then INV_SR, which INIT has written (R24). -/
def requireInit (s : State) : Except Cause F32 :=
  if s.initDone then readWritten s.invSr else .error .notInitialised

/-! ## Queues -/

/-- `enqueue(Q, e)` with the overflow rule (R63, R65). -/
def enqueue {α : Type} (c : Config) (q : List α) (e : α) : Except Cause (List α) :=
  if q.length < c.qCap then .ok (q ++ [e])
  else
    match c.overflowPolicy with
    | .dropOldest => .ok (q.drop 1 ++ [e])
    | .grow =>
      match c.qLimit with
      | none => .ok (q ++ [e])
      | some limit => if limit < q.length + 1 then .error .queueOverflow else .ok (q ++ [e])

/-- `dequeue(Q)`: the oldest entry, or EMPTY, and the queue without it (R64). -/
def dequeue {α : Type} (q : List α) : Option α × List α :=
  match q with
  | [] => (none, [])
  | e :: rest => (some e, rest)

/-! ## Result port, fault entry, performing a command -/

/-- `result <- v`: one F32 word on the result port (R13, R89). -/
def putResult (v : F32) (s : State) : State := { s with results := s.results ++ [v] }

/-- Fault entry: FAULT_VALID, FAULT_CAUSE and FAULT_HDR are written and "Every other register and both queues keep the
values they had before the command began" (R264). -/
def takeFault (cause : Cause) (h : Word) (s : State) : State :=
  { s with faultValid := true, faultCause := cause.code, faultHdr := h }

/-- One command with header `h` and effect `body`, as an atomic step (R68). A faulted core accepts it without effect
(R267); a raised fault keeps the state before the command but for the fault registers (R264). -/
def perform (h : Word) (body : State → Except Cause State) (s : State) : Host.Outcome State Fault Refusal :=
  .next
    (if s.faultValid then s
     else
       match body s with
       | .ok t => t
       | .error cause => takeFault cause h s)

/-! ## Command port -/

/-- Words arriving on the command port, after those already there (R67, R70). -/
def State.deliver (ws : List Word) (s : State) : State := { s with port := s.port ++ ws }

/-- The bytes a transport carries for the result words produced (R66). -/
def resultBytes (c : Config) (s : State) : List Byte := s.results.flatMap (wordToBytes c.byteOrder)

/-- What the command port offers the next step (R67, R82, R86). -/
inductive Fetched where
  /-- no word: nothing to perform -/
  | idle
  /-- part of a command -/
  | incomplete
  /-- all the words of a command whose header is illegal -/
  | illegal (h : Word) (rest : List Word)
  /-- a command -/
  | command (i : Instr) (rest : List Word)
  deriving DecidableEq, Repr

/-- Reading the head of the command port. -/
def fetch (port : List Word) : Fetched :=
  match decode port with
  | .ok (i, rest) => .command i rest
  | .error .noWords => .idle
  | .error .incomplete => .incomplete
  | .error (.illegal h _ rest) => .illegal h rest

/-- A command with an illegal header raises ILLEGAL_COMMAND (R86). -/
def performIllegal (h : Word) (s : State) : Host.Outcome State Fault Refusal :=
  perform h (fun _ => .error .illegalCommand) s

/-- One step, given what performs a command: the command's words leave the port and the command is performed on the
state without them. With no whole command on the port there is no step (R67, 93 U21; log 2). -/
def stepBy (run : Instr → State → Host.Outcome State Fault Refusal) (s : State) :
    Host.Outcome State Fault Refusal :=
  match fetch s.port with
  | .idle => .fault .portIdle
  | .incomplete => .fault .commandIncomplete
  | .illegal h rest => performIllegal h { s with port := rest }
  | .command i rest => run i { s with port := rest }

end Sys2Proof.Machine
end

