-- ==== Sys2Proof/Machine/Operands.lean ====
section
/-! DEFINITION. The operand checks of 60_exceptions.md R263, each written as the command's own rule writes it. Operand
words carry any bit pattern (30_encoding.md R87); every check fails on NaN. -/

namespace Sys2Proof.Machine

/-- "finite, > 0" (R263; R120, R175, R235). -/
def positiveFinite (c : Config) (x : F32) : Bool := c.num.lt fZero x && c.num.isFinite x

/-- "0 <= v <= 1 (-0.0 accepted)" (R263; R121, R122). -/
def inUnit (c : Config) (x : F32) : Bool := c.num.le fZero x && c.num.le x (c.num.lit .one)

/-- INIT's operand: its reciprocal, or BAD_SAMPLE_RATE (R235). -/
def sampleRatePeriod (c : Config) (sr : F32) : Except Cause F32 :=
  if positiveFinite c sr then
    if c.num.isInf (c.num.div (c.num.lit .one) sr) then .error .badSampleRate else .ok (c.num.div (c.num.lit .one) sr)
  else .error .badSampleRate

/-- SETFREQ's operand: its reciprocal, or BAD_FREQUENCY (R120). -/
def frequencyPeriod (c : Config) (hz : F32) : Except Cause F32 :=
  if positiveFinite c hz then
    if c.num.isInf (c.num.div (c.num.lit .one) hz) then .error .badFrequency else .ok (c.num.div (c.num.lit .one) hz)
  else .error .badFrequency

/-- SETVOL's operand (R121). -/
def volumeOperand (c : Config) (v : F32) : Except Cause F32 :=
  if inUnit c v then .ok v else .error .badVolume

/-- SETDUTY's operand (R122). -/
def dutyOperand (c : Config) (d : F32) : Except Cause F32 :=
  if inUnit c d then .ok d else .error .badDuty

/-- A sample operand of ADDSAMPLE or ADDDIRECT (R160, R175). -/
def sampleOperand (c : Config) (x : F32) : Except Cause F32 :=
  if c.num.isFinite x then .ok x else .error .badSample

/-- ADDDIRECT's period operand (R175). -/
def directPeriodOperand (c : Config) (p : F32) : Except Cause F32 :=
  if positiveFinite c p then .ok p else .error .badDirectPeriod

end Sys2Proof.Machine
end

