-- ==== Sys2Proof/Machine/Filter.lean ====
section
/-! DEFINITION. Family 43_filters.md: the coefficients and recurrences of the first-order filters. -/

namespace Sys2Proof.Machine

/-- RC = 1.0 / (two_pi * FC), with two_pi = 2.0 * PI (R201, R202). -/
def filterRC (c : Config) (fc : F32) : Except Cause F32 := do
  let twoPi ← fmul c (c.num.lit .two) (c.num.lit .pi)
  let w ← fmul c twoPi fc
  fdiv c (c.num.lit .one) w

/-- High-pass ALPHA = RC / (RC + INV_SR) (R201). -/
def highPassAlpha (c : Config) (isr fc : F32) : Except Cause F32 := do
  let rc ← filterRC c fc
  let den ← fadd c rc isr
  fdiv c rc den

/-- Low-pass ALPHA = 1.0 / (1.0 + RC * SR) (R202). -/
def lowPassAlpha (c : Config) (sr fc : F32) : Except Cause F32 := do
  let rc ← filterRC c fc
  let m ← fmul c rc sr
  let den ← fadd c (c.num.lit .one) m
  fdiv c (c.num.lit .one) den

/-- FILTER_INIT(k, sr, fc) for k = 0, 1, with INV_SR as `isr` (R205). -/
def highPassInit (c : Config) (isr sr fc : F32) : Except Cause HighPass := do
  let alpha ← highPassAlpha c isr fc
  .ok { sr := some sr, fc := some fc, alpha := some alpha, xPrev := fZero, yPrev := fZero }

/-- FILTER_INIT(2, sr, fc) (R205). -/
def lowPassInit (c : Config) (sr fc : F32) : Except Cause LowPass := do
  let alpha ← lowPassAlpha c sr fc
  .ok { sr := some sr, fc := some fc, alpha := some alpha, yPrev := fZero }

/-- APPLY_HP(k, x): y = ALPHA * Y_PREV + ALPHA * (x - X_PREV) (R203). -/
def applyHighPass (c : Config) (f : HighPass) (x : F32) : Except Cause (HighPass × F32) := do
  let alpha ← readWritten f.alpha
  let a ← fmul c alpha f.yPrev
  let d ← fsub c x f.xPrev
  let b ← fmul c alpha d
  let y ← fadd c a b
  .ok ({ f with xPrev := x, yPrev := y }, y)

/-- APPLY_LP(x): y = Y_PREV + ALPHA * (x - Y_PREV) (R204). -/
def applyLowPass (c : Config) (f : LowPass) (x : F32) : Except Cause (LowPass × F32) := do
  let alpha ← readWritten f.alpha
  let d ← fsub c x f.yPrev
  let b ← fmul c alpha d
  let y ← fadd c f.yPrev b
  .ok ({ f with yPrev := y }, y)

end Sys2Proof.Machine
end

