-- ==== Sys2Proof/Machine/Generator.lean ====
section
/-! DEFINITION. Family 41_phase_accumulator.md: the phase accumulator with its commit, the four parameter setters, and
the output shapers of the pulse, triangle and noise generators.

A generator's function takes the parameters `c`, INV_SR as `isr` and the generator's own registers, and returns the
registers after it: "each get touches only its own registers" (R233). -/

namespace Sys2Proof.Machine

/-! ## Phase accumulator (R110 to R115) -/

/-- The first half of UPDATE (R110): the advanced phase, and the elapsed-period count when it crosses the active
period. A crossing is `ph >= PERIOD`; the count is against that period; a count above N_MAX faults (R115). -/
def phaseStep (c : Config) (isr phase period : F32) : Except Cause (F32 × Option Nat) := do
  let ph ← fadd c phase isr
  if c.num.le period ph then
    let n ← floorExact c ph period
    if c.nMax < n then .error .countOverflow else .ok (ph, some n)
  else .ok (ph, none)

/-- The volume a commit makes active: exactly +0.0 below VOL_THRESHOLD (R112, R171). -/
def committedVolume (c : Config) (v : F32) : F32 := if c.num.lt v (c.num.lit .volThreshold) then fZero else v

/-- COMMIT of the shared registers (R111, R112, R114): NEXT_PERIOD then NEXT_VOLUME are read, then both are written. -/
def commitPhasor (c : Config) (a : Phasor) : Except Cause Phasor := do
  let p ← readWritten a.nextPeriod
  let v ← readWritten a.nextVolume
  .ok { a with period := some p, volume := committedVolume c v }

/-- COMMIT of P1 or P2, with the duty as well (R113, R114). -/
def commitPulse (c : Config) (g : Pulse) : Except Cause Pulse := do
  let a ← commitPhasor c g.acc
  let d ← readWritten g.nextDuty
  .ok { g with acc := a, duty := some d }

/-- The end of UPDATE: the phase wraps into the period now active (R110). -/
def wrapPhase (c : Config) (ph : F32) (a : Phasor) : Except Cause Phasor := do
  let p ← readWritten a.period
  let r ← ffmod c ph p
  .ok { a with phase := r }

/-- UPDATE of TRI, NOISE and SMP: the registers and the count n (R110). -/
def phasorUpdate (c : Config) (isr : F32) (a : Phasor) : Except Cause (Phasor × Nat) := do
  let period ← readWritten a.period
  let (ph, crossed) ← phaseStep c isr a.phase period
  match crossed with
  | none => .ok ({ a with phase := ph }, 0)
  | some n =>
    let a' ← commitPhasor c a
    let a'' ← wrapPhase c ph a'
    .ok (a'', n)

/-- UPDATE of P1 and P2, whose commit includes the duty (R110, R113). -/
def pulseUpdate (c : Config) (isr : F32) (g : Pulse) : Except Cause (Pulse × Nat) := do
  let period ← readWritten g.acc.period
  let (ph, crossed) ← phaseStep c isr g.acc.phase period
  match crossed with
  | none => .ok ({ g with acc := { g.acc with phase := ph } }, 0)
  | some n =>
    let g' ← commitPulse c g
    let a ← wrapPhase c ph g'.acc
    .ok ({ g' with acc := a }, n)

/-! ## Pulse (R130) -/

/-- The pulse level: +VOLUME while PHASE <= DUTY * PERIOD, else -VOLUME. -/
def pulseLevel (c : Config) (phase period duty volume : F32) : Except Cause F32 := do
  let edge ← fmul c duty period
  if c.num.le phase edge then .ok volume else fneg c volume

/-- PULSE_GET(G) for P1 and P2. -/
def pulseGet (c : Config) (isr : F32) (g : Pulse) : Except Cause (Pulse × F32) := do
  let (g', _) ← pulseUpdate c isr g
  let p ← readWritten g'.acc.period
  let d ← readWritten g'.duty
  let out ← pulseLevel c g'.acc.phase p d g'.acc.volume
  .ok ({ g' with acc := { g'.acc with out := out } }, out)

/-! ## Triangle (R131) -/

/-- The ramp at `t` in [0, 1): 4 t - 1 below one half, else 3 - 4 t. -/
def triangleRamp (c : Config) (t : F32) : Except Cause F32 := do
  let q ← fmul c (c.num.lit .four) t
  if c.num.lt t (c.num.lit .half) then fsub c q (c.num.lit .one) else fsub c (c.num.lit .three) q

/-- TRI_GET(). -/
def triGet (c : Config) (isr : F32) (a : Phasor) : Except Cause (Phasor × F32) := do
  let (a', _) ← phasorUpdate c isr a
  let p ← readWritten a'.period
  let t ← fdiv c a'.phase p
  let y ← triangleRamp c t
  let out ← fmul c y a'.volume
  .ok ({ a' with out := out }, out)

/-! ## Noise (R134, R135) -/

/-- The feedback bit of an advance: bit 0 XOR bit 6 in metallic mode, else bit 0 XOR bit 1 (R134). -/
def lfsrFeedback (metallic : Bool) (r : Lfsr) : Bool :=
  r.getLsbD 0 ^^ (if metallic then r.getLsbD 6 else r.getLsbD 1)

/-- ADVANCE(): shift right by one, and set bit 14 if the feedback is set (R134). -/
def lfsrAdvance (metallic : Bool) (r : Lfsr) : Lfsr :=
  if lfsrFeedback metallic r then (r >>> 1) ||| 0x4000#15 else r >>> 1

/-- What one advance from `r` adds to the count: bit 0 before the shift, or after it (R135, parameter
NOISE_SAMPLE_POINT). -/
def lfsrCounted (c : Config) (metallic : Bool) (r : Lfsr) : Nat :=
  match c.samplePoint with
  | .preShift => (r.getLsbD 0).toNat
  | .postShift => ((lfsrAdvance metallic r).getLsbD 0).toNat

/-- `n` advances from `r`, with the running count (R135). -/
def lfsrRun (c : Config) (metallic : Bool) : Nat → Lfsr → Nat → Lfsr × Nat
  | 0, r, count => (r, count)
  | n + 1, r, count => lfsrRun c metallic n (lfsrAdvance metallic r) (count + lfsrCounted c metallic r)

/-- NOISE_GET(). With n = 0 "the previous computed value persists unchanged". -/
def noiseGet (c : Config) (isr : F32) (g : Noise) : Except Cause (Noise × F32) := do
  let (a, n) ← phasorUpdate c isr g.acc
  if n = 0 then .ok ({ g with acc := a }, a.out)
  else
    let (r, count) := lfsrRun c g.metallic n g.lfsr 0
    let num ← ffromNat c count
    let den ← ffromNat c n
    let average ← fdiv c num den
    let out ← fmul c average a.volume
    .ok ({ g with acc := { a with out := out }, lfsr := r, average := average }, out)

/-! ## Setters (R120 to R123, R237) -/

/-- NEXT_PERIOD of a channel is written; DSMP has none, and "SETFREQ on DSMP ... writes nothing" (R120). -/
def writeNextPeriod (ch : Channel) (p : F32) (s : State) : State :=
  match ch with
  | .p1 => { s with p1 := { s.p1 with acc := { s.p1.acc with nextPeriod := some p } } }
  | .p2 => { s with p2 := { s.p2 with acc := { s.p2.acc with nextPeriod := some p } } }
  | .tri => { s with tri := { s.tri with nextPeriod := some p } }
  | .noise => { s with noise := { s.noise with acc := { s.noise.acc with nextPeriod := some p } } }
  | .smp => { s with smp := { s.smp with acc := { s.smp.acc with nextPeriod := some p } } }
  | .dsmp => s

/-- NEXT_VOLUME of a channel is written (R121). -/
def writeNextVolume (ch : Channel) (v : F32) (s : State) : State :=
  match ch with
  | .p1 => { s with p1 := { s.p1 with acc := { s.p1.acc with nextVolume := some v } } }
  | .p2 => { s with p2 := { s.p2 with acc := { s.p2.acc with nextVolume := some v } } }
  | .tri => { s with tri := { s.tri with nextVolume := some v } }
  | .noise => { s with noise := { s.noise with acc := { s.noise.acc with nextVolume := some v } } }
  | .smp => { s with smp := { s.smp with acc := { s.smp.acc with nextVolume := some v } } }
  | .dsmp => { s with dsmp := { s.dsmp with nextVolume := some v } }

/-- The pending volume SETVOL stores: DIRECT_GAIN * v for DSMP, else v (R121, R176). -/
def pendingVolume (c : Config) (ch : Channel) (v : F32) : Except Cause F32 :=
  match ch with
  | .dsmp => fmul c (c.num.lit .directGain) v
  | .p1 => .ok v
  | .p2 => .ok v
  | .tri => .ok v
  | .noise => .ok v
  | .smp => .ok v

/-- NEXT_DUTY of P1 or P2 is written; any other CH is illegal (R122, R86 item 3). -/
def writeNextDuty (ch : Channel) (d : F32) (s : State) : Except Cause State :=
  match ch with
  | .p1 => .ok { s with p1 := { s.p1 with nextDuty := some d } }
  | .p2 => .ok { s with p2 := { s.p2 with nextDuty := some d } }
  | .tri => .error .illegalCommand
  | .noise => .error .illegalCommand
  | .smp => .error .illegalCommand
  | .dsmp => .error .illegalCommand

/-- SETFREQ ch, hz (R120). -/
def setfreqBody (c : Config) (ch : Channel) (hz : F32) (s : State) : Except Cause State := do
  let p ← frequencyPeriod c hz
  .ok (writeNextPeriod ch p s)

/-- SETVOL ch, v (R121). -/
def setvolBody (c : Config) (ch : Channel) (v : F32) (s : State) : Except Cause State := do
  let v ← volumeOperand c v
  let w ← pendingVolume c ch v
  .ok (writeNextVolume ch w s)

/-- SETDUTY ch, d (R122). The header is checked before the operand (60_exceptions.md R266). -/
def setdutyBody (c : Config) (ch : Channel) (d : F32) (s : State) : Except Cause State :=
  if ch.isPulse then do
    let d ← dutyOperand c d
    writeNextDuty ch d s
  else .error .illegalCommand

/-- SETMETAL b: "the write takes effect at once" (R123). -/
def setmetalBody (b : Bool) (s : State) : Except Cause State :=
  .ok { s with noise := { s.noise with metallic := b } }

/-- SETFREQ with parameters `c`. -/
def setfreqWith (c : Config) (ch : Channel) (hz : F32) (s : State) : Host.Outcome State Fault Refusal :=
  perform (headerOf (.setfreq ch hz)) (setfreqBody c ch hz) s

/-- SETVOL with parameters `c`. -/
def setvolWith (c : Config) (ch : Channel) (v : F32) (s : State) : Host.Outcome State Fault Refusal :=
  perform (headerOf (.setvol ch v)) (setvolBody c ch v) s

/-- SETDUTY with parameters `c`. -/
def setdutyWith (c : Config) (ch : Channel) (d : F32) (s : State) : Host.Outcome State Fault Refusal :=
  perform (headerOf (.setduty ch d)) (setdutyBody c ch d) s

/-- Meaning of SETFREQ (R120). -/
def execSetfreq (ch : Channel) (hz : F32) (s : State) : Host.Outcome State Fault Refusal :=
  setfreqWith Config.core ch hz s

/-- Meaning of SETVOL (R121). -/
def execSetvol (ch : Channel) (v : F32) (s : State) : Host.Outcome State Fault Refusal :=
  setvolWith Config.core ch v s

/-- Meaning of SETDUTY (R122). -/
def execSetduty (ch : Channel) (d : F32) (s : State) : Host.Outcome State Fault Refusal :=
  setdutyWith Config.core ch d s

/-- Meaning of SETMETAL (R123). -/
def execSetmetal (b : Bool) (s : State) : Host.Outcome State Fault Refusal :=
  perform (headerOf (.setmetal b)) (setmetalBody b) s

end Sys2Proof.Machine
end

