-- ==== Sys2Proof/Machine/Resampler.lean ====
section
/-! DEFINITION. Family 42_resampling.md: the buffered-sample generator SMP, the direct-sample generator DSMP, and the
commands ADDSAMPLE, ADDDIRECT and CLEAR. -/

namespace Sys2Proof.Machine

/-! ## Shared pieces (R151, R152) -/

/-- HISTORY_PUSH(SMP, x) (R151). -/
def pushSmp (x : F32) (g : Smp) : Smp := { g with hPrev := g.hCur, hCur := x }

/-- HISTORY_PUSH(DSMP, x) (R151). -/
def pushDsmp (x : F32) (g : Dsmp) : Dsmp := { g with hPrev := g.hCur, hCur := x }

/-- `mu2` of R152: (1 - COS(t * PI)) * 0.5. -/
def raisedCosine (c : Config) (t : F32) : Except Cause F32 := do
  let angle ← fmul c t (c.num.lit .pi)
  let co ← fcos c angle
  let d ← fsub c (c.num.lit .one) co
  fmul c d (c.num.lit .half)

/-- INTERP(hp, hc, t): hp * (1 - mu2) + hc * mu2 (R152). -/
def interp (c : Config) (hp hc t : F32) : Except Cause F32 := do
  let mu2 ← raisedCosine c t
  let rest ← fsub c (c.num.lit .one) mu2
  let a ← fmul c hp rest
  let b ← fmul c hc mu2
  fadd c a b

/-! ## SMP (R160 to R162) -/

/-- `n` dequeues summed in order onto `s`, EMPTY counting +0.0 (R161, R64). -/
def sumSamples (c : Config) : Nat → F32 → List F32 → Except Cause (F32 × List F32)
  | 0, s, q => .ok (s, q)
  | n + 1, s, q => do
    let s' ← fadd c s ((dequeue q).1.getD fZero)
    sumSamples c n s' (dequeue q).2

/-- The n > 1 branch of SMP_GET: the box filter (R161). -/
def smpAverage (c : Config) (n : Nat) (g : Smp) : Except Cause (Smp × F32) := do
  let (s, q) ← sumSamples c n fZero g.queue
  let k ← ffromNat c n
  let avg ← fdiv c s k
  let out ← fmul c avg g.acc.volume
  let g' := pushSmp avg { g with queue := q }
  .ok ({ g' with acc := { g'.acc with out := out } }, out)

/-- The end of the n <= 1 branch of SMP_GET: interpolation at t = PHASE / PERIOD (R161). -/
def smpInterpolate (c : Config) (g : Smp) : Except Cause (Smp × F32) := do
  let p ← readWritten g.acc.period
  let t ← fdiv c g.acc.phase p
  let y ← interp c g.hPrev g.hCur t
  let out ← fmul c y g.acc.volume
  .ok ({ g with acc := { g.acc with out := out } }, out)

/-- One sample from SMPQ into the history, EMPTY counting +0.0 (R161, n = 1). -/
def smpTake (g : Smp) : Smp :=
  pushSmp ((dequeue g.queue).1.getD fZero) { g with queue := (dequeue g.queue).2 }

/-- SMP_GET() (R161). -/
def smpGet (c : Config) (isr : F32) (g : Smp) : Except Cause (Smp × F32) := do
  let (a, n) ← phasorUpdate c isr g.acc
  let g' := { g with acc := a }
  if 1 < n then smpAverage c n g'
  else if n = 1 then smpInterpolate c (smpTake g')
  else smpInterpolate c g'

/-! ## DSMP (R170 to R172) -/

/-- period(CUR): INV_SR for IDLE (R44, R170). -/
def Current.period (isr : F32) : Current → F32
  | .idle => isr
  | .entry e => e.period

/-- value(CUR): +0.0 for IDLE (R44, R170). -/
def Current.value : Current → F32
  | .idle => fZero
  | .entry e => e.value

/-- The entry that is current after one dequeue: the dequeued one, "else the entry is reused" (R170, 90 C2). -/
def nextCurrent (cur : Current) (q : List Entry) : Current :=
  match (dequeue q).1 with
  | some e => .entry e
  | none => cur

/-- What the loop of DSMP_UPDATE carries: ph, n, s, DSMP.CUR and DQ. -/
structure DirectLoop where
  ph : F32
  n : Nat
  sum : F32
  cur : Current
  queue : List Entry
  deriving DecidableEq, Repr

/-- The loop of DSMP_UPDATE (R170). `room` is how many more iterations N_MAX allows; the iteration after them raises
COUNT_OVERFLOW, which also ends a loop that makes no progress. -/
def directLoop (c : Config) (isr : F32) : Nat → DirectLoop → Except Cause DirectLoop
  | 0, l =>
    if c.num.lt (l.cur.period isr) l.ph then do
      let _ ← fsub c l.ph (l.cur.period isr)
      .error .countOverflow
    else .ok l
  | room + 1, l =>
    if c.num.lt (l.cur.period isr) l.ph then do
      let ph ← fsub c l.ph (l.cur.period isr)
      let cur := nextCurrent l.cur l.queue
      let sum ← fadd c l.sum cur.value
      directLoop c isr room { ph := ph, n := l.n + 1, sum := sum, cur := cur, queue := (dequeue l.queue).2 }
    else .ok l

/-- DSMP_COMMIT() (R171). -/
def dsmpCommit (c : Config) (g : Dsmp) : Except Cause Dsmp := do
  let v ← readWritten g.nextVolume
  .ok { g with volume := committedVolume c v }

/-- DSMP_UPDATE(): the registers, n and s (R170). -/
def dsmpUpdate (c : Config) (isr : F32) (g : Dsmp) : Except Cause (Dsmp × Nat × F32) := do
  let ph ← fadd c g.phase isr
  let l ← directLoop c isr c.nMax { ph := ph, n := 0, sum := fZero, cur := g.cur, queue := g.queue }
  let g' := { g with phase := l.ph, cur := l.cur, queue := l.queue }
  if l.n = 0 then .ok (g', l.n, l.sum)
  else do
    let g'' ← dsmpCommit c g'
    .ok (g'', l.n, l.sum)

/-- The n > 1 branch of DSMP_GET (R172). -/
def dsmpAverage (c : Config) (n : Nat) (s : F32) (g : Dsmp) : Except Cause (Dsmp × F32) := do
  let k ← ffromNat c n
  let avg ← fdiv c s k
  let out ← fmul c avg g.volume
  .ok ({ pushDsmp avg g with out := out }, out)

/-- The end of the n <= 1 branch of DSMP_GET: interpolation at t = PHASE / period(CUR) (R172). -/
def dsmpInterpolate (c : Config) (isr : F32) (g : Dsmp) : Except Cause (Dsmp × F32) := do
  let t ← fdiv c g.phase (g.cur.period isr)
  let y ← interp c g.hPrev g.hCur t
  let out ← fmul c y g.volume
  .ok ({ g with out := out }, out)

/-- DSMP_GET() (R172). -/
def dsmpGet (c : Config) (isr : F32) (g : Dsmp) : Except Cause (Dsmp × F32) := do
  let (g', n, s) ← dsmpUpdate c isr g
  if 1 < n then dsmpAverage c n s g'
  else if n = 1 then dsmpInterpolate c isr (pushDsmp g'.cur.value g')
  else dsmpInterpolate c isr g'

/-! ## Commands (R160, R175, R180) -/

/-- ADDSAMPLE s (R160). -/
def addsampleBody (c : Config) (x : F32) (s : State) : Except Cause State := do
  let x ← sampleOperand c x
  let q ← enqueue c s.smp.queue x
  .ok { s with smp := { s.smp with queue := q } }

/-- ADDDIRECT p, x: "BAD_DIRECT_PERIOD is checked first, then BAD_SAMPLE" (R175). -/
def adddirectBody (c : Config) (p x : F32) (s : State) : Except Cause State := do
  let p ← directPeriodOperand c p
  let x ← sampleOperand c x
  let q ← enqueue c s.dsmp.queue { period := p, value := x }
  .ok { s with dsmp := { s.dsmp with queue := q } }

/-- What CLEAR does to SMP (R180). -/
def clearSmp (g : Smp) : Smp :=
  { g with
    acc := { g.acc with phase := fZero, out := fZero }
    queue := []
    hPrev := fZero
    hCur := fZero }

/-- What CLEAR does to DSMP (R180). -/
def clearDsmp (g : Dsmp) : Dsmp :=
  { g with phase := fZero, out := fZero, queue := [], hPrev := fZero, hCur := fZero, cur := .idle }

/-- CLEAR: "reset both sample channels" (R180). -/
def clearBody (s : State) : Except Cause State :=
  .ok { s with smp := clearSmp s.smp, dsmp := clearDsmp s.dsmp }

/-- ADDSAMPLE with parameters `c`. -/
def addsampleWith (c : Config) (x : F32) (s : State) : Host.Outcome State Fault Refusal :=
  perform (headerOf (.addsample x)) (addsampleBody c x) s

/-- ADDDIRECT with parameters `c`. -/
def adddirectWith (c : Config) (p x : F32) (s : State) : Host.Outcome State Fault Refusal :=
  perform (headerOf (.adddirect p x)) (adddirectBody c p x) s

/-- Meaning of ADDSAMPLE (R160). -/
def execAddsample (x : F32) (s : State) : Host.Outcome State Fault Refusal := addsampleWith Config.core x s

/-- Meaning of ADDDIRECT (R175). -/
def execAdddirect (p x : F32) (s : State) : Host.Outcome State Fault Refusal := adddirectWith Config.core p x s

/-- Meaning of CLEAR (R180). -/
def execClear (s : State) : Host.Outcome State Fault Refusal :=
  perform (headerOf .clear) clearBody s

end Sys2Proof.Machine
end

