-- ==== Sys2Proof/Machine/Mixer.lean ====
section
/-! DEFINITION. Family 44_mixer.md: the weighted sum, the filter chain and the clamp, and the commands INIT, MIX and GET. -/

namespace Sys2Proof.Machine

/-! ## One generator of the state ticks (R233, R236) -/

/-- PULSE_GET(P1) on the state. -/
def tickP1 (c : Config) (isr : F32) (s : State) : Except Cause (State × F32) := do
  let (g, o) ← pulseGet c isr s.p1
  .ok ({ s with p1 := g }, o)

/-- PULSE_GET(P2) on the state. -/
def tickP2 (c : Config) (isr : F32) (s : State) : Except Cause (State × F32) := do
  let (g, o) ← pulseGet c isr s.p2
  .ok ({ s with p2 := g }, o)

/-- TRI_GET() on the state. -/
def tickTri (c : Config) (isr : F32) (s : State) : Except Cause (State × F32) := do
  let (g, o) ← triGet c isr s.tri
  .ok ({ s with tri := g }, o)

/-- NOISE_GET() on the state. -/
def tickNoise (c : Config) (isr : F32) (s : State) : Except Cause (State × F32) := do
  let (g, o) ← noiseGet c isr s.noise
  .ok ({ s with noise := g }, o)

/-- SMP_GET() on the state. -/
def tickSmp (c : Config) (isr : F32) (s : State) : Except Cause (State × F32) := do
  let (g, o) ← smpGet c isr s.smp
  .ok ({ s with smp := g }, o)

/-- DSMP_GET() on the state. -/
def tickDsmp (c : Config) (isr : F32) (s : State) : Except Cause (State × F32) := do
  let (g, o) ← dsmpGet c isr s.dsmp
  .ok ({ s with dsmp := g }, o)

/-- The get of the generator a channel names (R236). -/
def tick (c : Config) (isr : F32) (ch : Channel) (s : State) : Except Cause (State × F32) :=
  match ch with
  | .p1 => tickP1 c isr s
  | .p2 => tickP2 c isr s
  | .tri => tickTri c isr s
  | .noise => tickNoise c isr s
  | .smp => tickSmp c isr s
  | .dsmp => tickDsmp c isr s

/-! ## Sum, filter chain, clamp (R231 to R234) -/

/-- One term of the weighted sum: acc + w * o. -/
def addWeighted (c : Config) (acc w o : F32) : Except Cause F32 := do
  let x ← fmul c w o
  fadd c acc x

/-- The weighted sum of the six outputs in channel order, divided once by W_SUM (R231, R233). -/
def weightedMean (c : Config) (o0 o1 o2 o3 o4 o5 : F32) : Except Cause F32 := do
  let acc ← fmul c (c.num.lit .weightTone) o0
  let acc ← addWeighted c acc (c.num.lit .weightTone) o1
  let acc ← addWeighted c acc (c.num.lit .weightTone) o2
  let acc ← addWeighted c acc (c.num.lit .weightNoise) o3
  let acc ← addWeighted c acc (c.num.lit .weightSample) o4
  let acc ← addWeighted c acc (c.num.lit .weightSample) o5
  fdiv c acc (c.num.lit .weightSum)

/-- The filter chain F0, F1, F2 on the state (R232, R233). -/
def filterChain (c : Config) (s : State) (m : F32) : Except Cause (State × F32) := do
  let (f0, m) ← applyHighPass c s.f0 m
  let (f1, m) ← applyHighPass c s.f1 m
  let (f2, m) ← applyLowPass c s.f2 m
  .ok ({ s with f0 := f0, f1 := f1, f2 := f2 }, m)

/-- CLAMP(m), with strict comparisons (R234). -/
def clamp (c : Config) (m : F32) : F32 :=
  if c.num.lt (c.num.lit .clampHi) m then c.num.lit .clampHi
  else if c.num.lt m (c.num.lit .clampLo) then c.num.lit .clampLo
  else m

/-! ## Commands -/

/-- MIX (R233). -/
def mixBody (c : Config) (s : State) : Except Cause State := do
  let isr ← requireInit s
  let (s, o0) ← tickP1 c isr s
  let (s, o1) ← tickP2 c isr s
  let (s, o2) ← tickTri c isr s
  let (s, o3) ← tickNoise c isr s
  let (s, o4) ← tickSmp c isr s
  let (s, o5) ← tickDsmp c isr s
  let m ← weightedMean c o0 o1 o2 o3 o4 o5
  let (s, m) ← filterChain c s m
  .ok (putResult (clamp c m) s)

/-- GET ch: one generator ticks; no filter, no clamp (R236). -/
def getBody (c : Config) (ch : Channel) (s : State) : Except Cause State := do
  let isr ← requireInit s
  let (s, r) ← tick c isr ch s
  .ok (putResult r s)

/-- What INIT does to the shared registers of P1, P2, TRI, NOISE and SMP (R235). -/
def initPhasor (isr : F32) (a : Phasor) : Phasor :=
  { a with phase := fZero, period := some isr, volume := fZero, out := fZero }

/-- What INIT does to P1 and P2: DUTY and NEXT_DUTY are kept (R235). -/
def initPulse (isr : F32) (g : Pulse) : Pulse := { g with acc := initPhasor isr g.acc }

/-- What INIT does to NOISE: LFSR and METALLIC are kept (R235). -/
def initNoise (isr : F32) (g : Noise) : Noise := { g with acc := initPhasor isr g.acc, average := fZero }

/-- What INIT does to SMP (R235). -/
def initSmp (isr : F32) (g : Smp) : Smp :=
  { g with acc := initPhasor isr g.acc, queue := [], hPrev := fZero, hCur := fZero }

/-- What INIT does to DSMP (R235). -/
def initDsmp (g : Dsmp) : Dsmp :=
  { g with
    phase := fZero
    volume := fZero
    out := fZero
    queue := []
    hPrev := fZero
    hCur := fZero
    cur := .idle }

/-- INIT sr (R235). -/
def initBody (c : Config) (sr : F32) (s : State) : Except Cause State := do
  let isr ← sampleRatePeriod c sr
  let f0 ← highPassInit c isr sr (c.num.lit .cutoff0)
  let f1 ← highPassInit c isr sr (c.num.lit .cutoff1)
  let f2 ← lowPassInit c sr (c.num.lit .cutoff2)
  .ok
    { s with
      initDone := true
      invSr := some isr
      p1 := initPulse isr s.p1
      p2 := initPulse isr s.p2
      tri := initPhasor isr s.tri
      noise := initNoise isr s.noise
      smp := initSmp isr s.smp
      dsmp := initDsmp s.dsmp
      f0 := f0
      f1 := f1
      f2 := f2 }

/-- INIT with parameters `c`. -/
def initWith (c : Config) (sr : F32) (s : State) : Host.Outcome State Fault Refusal :=
  perform (headerOf (.init sr)) (initBody c sr) s

/-- MIX with parameters `c`. -/
def mixWith (c : Config) (s : State) : Host.Outcome State Fault Refusal := perform (headerOf .mix) (mixBody c) s

/-- GET with parameters `c`. -/
def getWith (c : Config) (ch : Channel) (s : State) : Host.Outcome State Fault Refusal :=
  perform (headerOf (.get ch)) (getBody c ch) s

/-- Meaning of INIT (R235). -/
def execInit (sr : F32) (s : State) : Host.Outcome State Fault Refusal := initWith Config.core sr s

/-- Meaning of MIX (R233). -/
def execMix (s : State) : Host.Outcome State Fault Refusal := mixWith Config.core s

/-- Meaning of GET (R236). -/
def execGet (ch : Channel) (s : State) : Host.Outcome State Fault Refusal := getWith Config.core ch s

end Sys2Proof.Machine
end

