-- ==== Sys2Proof/Machine/Dispatch.lean ====
section
/-! DEFINITION. The meaning of every command, one arm per constructor of `Instr`. -/

namespace Sys2Proof.Machine

def exec (i : Instr) (s : State) : Host.Outcome State Fault Refusal :=
  match i with
  | .init sr => Sys2Proof.Machine.execInit sr s
  | .clear => Sys2Proof.Machine.execClear s
  | .mix => Sys2Proof.Machine.execMix s
  | .get ch => Sys2Proof.Machine.execGet ch s
  | .setfreq ch hz => Sys2Proof.Machine.execSetfreq ch hz s
  | .setvol ch v => Sys2Proof.Machine.execSetvol ch v s
  | .setduty ch d => Sys2Proof.Machine.execSetduty ch d s
  | .setmetal b => Sys2Proof.Machine.execSetmetal b s
  | .addsample x => Sys2Proof.Machine.execAddsample x s
  | .adddirect p x => Sys2Proof.Machine.execAdddirect p x s

end Sys2Proof.Machine
end

