-- ==== Sys2Proof/Machine/Parameters.lean ====
section
/-! DEFINITION. The whole machine with its parameters as an argument: "The model takes these as arguments" (00_scope.md
R9). `exec` and `step` are this machine at `Config.core` (`exec_eq_execWith` and `step_eq_stepWith` in Laws/Ops.lean). A
configuration the spec refuses (93_implementation_defined.md U2, U18) is one that is not `Config.Valid`. -/

namespace Sys2Proof.Machine

/-- The meaning of every command with parameters `c`. CLEAR and SETMETAL depend on none. -/
def execWith (c : Config) (i : Instr) (s : State) : Host.Outcome State Fault Refusal :=
  match i with
  | .init sr => initWith c sr s
  | .clear => execClear s
  | .mix => mixWith c s
  | .get ch => getWith c ch s
  | .setfreq ch hz => setfreqWith c ch hz s
  | .setvol ch v => setvolWith c ch v s
  | .setduty ch d => setdutyWith c ch d s
  | .setmetal b => execSetmetal b s
  | .addsample x => addsampleWith c x s
  | .adddirect p x => adddirectWith c p x s

/-- One step of the machine with parameters `c`. -/
def stepWith (c : Config) (s : State) : Host.Outcome State Fault Refusal := stepBy (execWith c) s

/-- The machine with parameters `c`, from its own power-on state. -/
def coreWith (c : Config) : Host.Core where
  State := State
  Fault := Fault
  Refusal := Refusal
  step := stepWith c
  reset := State.powerOn c

end Sys2Proof.Machine
end

