-- ==== Sys2Proof/Machine/Step.lean ====
section
/-! DEFINITION. One step of the core: one command from the head of the command port (20_memory.md R67, R68, R70). The
core has no fetch and no program counter (10_state.md R21); "each command is one step" (70_reset_and_hazards.md R306). -/

namespace Sys2Proof.Machine

/-- One step: `stepBy` with the meanings of `exec`. -/
def step (s : State) : Host.Outcome State Fault Refusal := stepBy exec s

/-- `s` with the command whose bits are `w` delivered at the head of the command port, so that the next step performs it:
as many words as its header calls for, bits above `nbits` zero (log 14). -/
def State.withFetchWord (s : State) (nbits w : Nat) : State :=
  let words := tableWords nbits w
  { s with port := words.take (commandLength (words.headD 0#32)) ++ s.port }

end Sys2Proof.Machine
end

