-- ==== Sys2Proof/Machine/Assembler.lean ====
section
/-! DEFINITION. The assembly syntax of 30_encoding.md R90: text to the words of a program. It is a tool beside the core,
no part of its state; the spec describes it, so it is a total function here.

"Mnemonics and channel names are case-insensitive. `;` starts a comment" (R90); "Every line assembles to exactly one
command" (R91), but for a line with nothing on it, which assembles to none. The rule does not write out the grammar of a
decimal literal; here it is an optional sign, digits with an optional fraction, and an optional exponent (log 16). -/

namespace Sys2Proof.Assembler

/-! ## Tokens -/

/-- A word of the line, or a comma. -/
inductive Token where
  | word (cs : List Char)
  | comma
  deriving DecidableEq, Repr

/-- Blank characters between words. -/
def isBlank (ch : Char) : Bool := ch = ' ' || ch = '\t' || ch = '\r'

/-- Ends the word being read, if there is one. -/
def flush (cur : List Char) (ts : List Token) : List Token :=
  if cur.isEmpty then ts else .word cur.reverse :: ts

/-- The tokens of a line; `cur` is the word being read, reversed. -/
def tokenize : List Char → List Char → List Token
  | cur, [] => flush cur []
  | cur, ch :: cs =>
    if ch = ',' then flush cur (.comma :: tokenize [] cs)
    else if isBlank ch then flush cur (tokenize [] cs)
    else tokenize (ch :: cur) cs

/-- The line in lower case, up to its comment. -/
def cleanLine (line : List Char) : List Char := (line.takeWhile (· != ';')).map Char.toLower

/-! ## Numbers -/

/-- The value of a decimal or hexadecimal digit. -/
def digitValue (ch : Char) : Option Nat :=
  if '0' ≤ ch ∧ ch ≤ '9' then some (ch.toNat - '0'.toNat)
  else if 'a' ≤ ch ∧ ch ≤ 'f' then some (ch.toNat - 'a'.toNat + 10)
  else none

/-- Digits in a base, most significant first, onto `acc`. -/
def digits (base : Nat) : Nat → List Char → Option Nat
  | acc, [] => some acc
  | acc, ch :: cs =>
    match digitValue ch with
    | some d => if d < base then digits base (acc * base + d) cs else none
    | none => none

/-- An optional sign, and what follows it. -/
def sign : List Char → Bool × List Char
  | '-' :: cs => (true, cs)
  | '+' :: cs => (false, cs)
  | cs => (false, cs)

/-- The exponent part of a decimal literal: nothing, or `e` with a signed number. -/
def exponent (cs : List Char) : Option Int :=
  match cs with
  | [] => some 0
  | 'e' :: rest =>
    let (neg, ds) := sign rest
    if ds.isEmpty then none
    else
      match digits 10 0 ds with
      | some n => some (if neg then -(n : Int) else n)
      | none => none
  | _ => none

/-- The F32 nearest to `m * 10^e`, ties to even. -/
def decimalF32 (neg : Bool) (m : Nat) (e : Int) : F32 :=
  if 0 ≤ e then F32.ofRatio neg (m * 10 ^ e.toNat) 1 else F32.ofRatio neg m (10 ^ (-e).toNat)

/-- A decimal literal, "which the assembler rounds to the nearest F32 with ties to even" (R90). -/
def parseDecimal (cs : List Char) : Option F32 :=
  let (neg, cs) := sign cs
  let whole := cs.takeWhile Char.isDigit
  let rest := cs.dropWhile Char.isDigit
  let frac := match rest with
    | '.' :: ds => ds.takeWhile Char.isDigit
    | _ => []
  let tail := match rest with
    | '.' :: ds => ds.dropWhile Char.isDigit
    | _ => rest
  if whole.isEmpty && frac.isEmpty then none
  else
    match digits 10 0 (whole ++ frac), exponent tail with
    | some m, some e => some (decimalF32 neg m (e - frac.length))
    | _, _ => none

/-- An `<f32>` operand: a decimal literal, or `#0xXXXXXXXX`, "which gives the raw binary32 bits" (R90). -/
def parseF32 (cs : List Char) : Option F32 :=
  match cs with
  | '#' :: '0' :: 'x' :: ds => if ds.length = 8 then (digits 16 0 ds).map (BitVec.ofNat 32) else none
  | _ => parseDecimal cs

/-- A `<ch>` operand (R83, R90). -/
def parseChannel (cs : List Char) : Option Channel :=
  if cs = "p1".toList then some .p1
  else if cs = "p2".toList then some .p2
  else if cs = "tri".toList then some .tri
  else if cs = "noise".toList then some .noise
  else if cs = "smp".toList then some .smp
  else if cs = "dsmp".toList then some .dsmp
  else none

/-! ## Commands -/

/-- A mnemonic alone. -/
def parseNone (m : List Char) : Option Instr :=
  if m = "clear".toList then some .clear
  else if m = "mix".toList then some .mix
  else none

/-- A mnemonic with one operand. -/
def parseOne (m x : List Char) : Option Instr :=
  if m = "init".toList then (parseF32 x).map .init
  else if m = "get".toList then (parseChannel x).map .get
  else if m = "setmetal".toList then
    (if x = "0".toList then some (.setmetal false) else if x = "1".toList then some (.setmetal true) else none)
  else if m = "addsample".toList then (parseF32 x).map .addsample
  else none

/-- A mnemonic with two operands. SETDUTY takes p1 or p2 only (R90). -/
def parseTwo (m x y : List Char) : Option Instr :=
  if m = "adddirect".toList then
    match parseF32 x, parseF32 y with
    | some p, some s => some (.adddirect p s)
    | _, _ => none
  else
    match parseChannel x, parseF32 y with
    | some ch, some v =>
      if m = "setfreq".toList then some (.setfreq ch v)
      else if m = "setvol".toList then some (.setvol ch v)
      else if m = "setduty".toList then (if ch.isPulse then some (.setduty ch v) else none)
      else none
    | _, _ => none

/-- One line: `none` if it is not in the syntax, `some []` if nothing is on it, else the words of its one command. -/
def assembleLine (line : List Char) : Option (List Word) :=
  match tokenize [] (cleanLine line) with
  | [] => some []
  | [.word m] => (parseNone m).map encode
  | [.word m, .word x] => (parseOne m x).map encode
  | [.word m, .word x, .comma, .word y] => (parseTwo m x y).map encode
  | _ => none

/-- A program, one line after another. -/
def assemble : List (List Char) → Option (List Word)
  | [] => some []
  | line :: lines =>
    match assembleLine line, assemble lines with
    | some ws, some rest => some (ws ++ rest)
    | _, _ => none

end Sys2Proof.Assembler
end

