-- ==== Sys2Proof/Safety.lean ====
section
/-! DEFINITION. What counts as a safe run, and the invariants of 10_state.md R51 with what they need to be kept by every
step. "Faulted" is the spec's own word (00_scope.md R15): the state after a fault, absorbing until power-on reset. -/

namespace Sys2Proof

/-- The number a decimal is. -/
def Ratio.toRat (r : Ratio) : ℚ := (if r.neg then -(r.num : ℚ) else r.num) / r.den

/-- `r` is a finite word of the format that stands for `q`. -/
def NumFmt.IsValue (f : NumFmt) (q : ℚ) (r : F32) : Prop := f.isFinite r = true ∧ f.value r = q

/-- A number format R12 can be read in: the zero word is 0, comparisons are those of the values, an operation whose exact
result the format has gives it, and every literal is a finite value nearest to the fixed constant it stands for, so that a
format changes no weight, cutoff, threshold, gain or limit beyond rounding it (R9, R49; 93 U18: refuse). How a result the
format does not have is rounded is the format's (93 U23). -/
structure NumFmt.Valid (f : NumFmt) : Prop where
  zero : f.isFinite fZero = true ∧ f.value fZero = 0
  lt_iff : ∀ x y, f.isFinite x = true → f.isFinite y = true → (f.lt x y = true ↔ f.value x < f.value y)
  le_iff : ∀ x y, f.isFinite x = true → f.isFinite y = true → (f.le x y = true ↔ f.value x ≤ f.value y)
  neg_value : ∀ x, f.isFinite x = true → f.IsValue (-f.value x) (f.neg x)
  exact : ∀ x y, f.isFinite x = true → f.isFinite y = true →
    ((∃ r, f.IsValue (f.value x + f.value y) r) → f.IsValue (f.value x + f.value y) (f.add x y)) ∧
    ((∃ r, f.IsValue (f.value x - f.value y) r) → f.IsValue (f.value x - f.value y) (f.sub x y)) ∧
    ((∃ r, f.IsValue (f.value x * f.value y) r) → f.IsValue (f.value x * f.value y) (f.mul x y)) ∧
    (f.value y ≠ 0 → (∃ r, f.IsValue (f.value x / f.value y) r) → f.IsValue (f.value x / f.value y) (f.div x y))
  literal_finite : ∀ l, f.isFinite (f.lit l) = true
  literal_nearest : ∀ l, l ≠ .pi → ∀ x, f.isFinite x = true →
    |f.value (f.lit l) - l.ratio.toRat| ≤ |f.value x - l.ratio.toRat|
  pi_nearest : ∀ x, f.isFinite x = true → |(f.value (f.lit .pi) : ℝ) - Real.pi| ≤ |(f.value x : ℝ) - Real.pi|

/-- A configuration the spec allows (00_scope.md R9; R152 for COS; R65 for the queue
limit; 93 U18: other constants are refused; 93 U2: seed 0 is refused). -/
structure Config.Valid (c : Config) : Prop where
  num : c.num.Valid
  cos_bounded : ∀ x, c.num.isFinite x = true →
    c.num.isFinite (c.cos x) = true ∧ c.num.le (c.num.neg (c.num.lit .one)) (c.cos x) = true ∧
      c.num.le (c.cos x) (c.num.lit .one) = true
  seed_nonzero : c.lfsrSeed ≠ 0#15
  limit_ge_cap : ∀ l, c.qLimit = some l → c.qCap ≤ l

/-- `r` is `z` units rounded to binary32 as IEEE 754 rounds to nearest: below 2^128 - 2^103, a nearest finite value, and of
two equally near the one with an even last bit; from there on, infinity with the sign of `z` (R12). -/
def F32.IsRounding (z : ℚ) (r : F32) : Prop :=
  (|z| < 2 ^ 277 - 2 ^ 252 → F32.isFinite r = true ∧
    ∀ x, F32.isFinite x = true → |(F32.units r : ℚ) - z| ≤ |(F32.units x : ℚ) - z| ∧
      (|(F32.units r : ℚ) - z| = |(F32.units x : ℚ) - z| → F32.units x ≠ F32.units r → F32.magBits r % 2 = 0)) ∧
  (2 ^ 277 - 2 ^ 252 ≤ |z| → F32.isInf r = true ∧ (F32.signBit r = true ↔ z < 0))

/-- The setters: the commands that write a pending register, and SETMETAL (R120 to R123). -/
def Instr.isSetter : Instr → Bool
  | .init _ => false
  | .clear => false
  | .mix => false
  | .get _ => false
  | .setfreq _ _ => true
  | .setvol _ _ => true
  | .setduty _ _ => true
  | .setmetal _ => true
  | .addsample _ => false
  | .adddirect _ _ => false

end Sys2Proof

namespace Sys2Proof.Machine

/-- The core is in service: no fault has been recorded. "A model treats a faulted state as never final" (R267), so a
claim about a result is a claim about a run whose states all serve. -/
def State.serving (s : State) : Prop := s.faultValid = false

/-- A run of `k` commands that ends in service. A fault is absorbing, so then every state on the way was in service. -/
def State.safeRun (k : Nat) (s : State) : Prop := ∃ t, core.run k s = .next t ∧ State.serving t

/-- Every pending parameter a tick of this channel may commit has been written (R111 to R114, R171). -/
def State.Pending (s : State) : Channel → Prop
  | .p1 => s.p1.acc.nextPeriod.isSome = true ∧ s.p1.acc.nextVolume.isSome = true ∧ s.p1.nextDuty.isSome = true
  | .p2 => s.p2.acc.nextPeriod.isSome = true ∧ s.p2.acc.nextVolume.isSome = true ∧ s.p2.nextDuty.isSome = true
  | .tri => s.tri.nextPeriod.isSome = true ∧ s.tri.nextVolume.isSome = true
  | .noise => s.noise.acc.nextPeriod.isSome = true ∧ s.noise.acc.nextVolume.isSome = true
  | .smp => s.smp.acc.nextPeriod.isSome = true ∧ s.smp.acc.nextVolume.isSome = true
  | .dsmp => s.dsmp.nextVolume.isSome = true

/-- The boot sequence is complete: INIT and every pending parameter (R293). -/
structure State.Booted (s : State) : Prop where
  init : s.initDone = true
  pending : ∀ ch, s.Pending ch

/-- `t` can be reached from `s` by performing commands of a kind, one after another in any number. -/
inductive State.Reaches (allowed : Instr → Prop) (s : State) : State → Prop where
  | refl : State.Reaches allowed s s
  | step {t u : State} (i : Instr) : State.Reaches allowed s t → allowed i → exec i t = .next u →
      State.Reaches allowed s u

/-! ## Period boundaries (R15, R110, R170) -/

/-- The next UPDATE of these registers crosses: `ph >= PERIOD` (R110). -/
def Phasor.crosses (isr : F32) (a : Phasor) : Bool := a.period.any (F32.ge (F32.add a.phase isr))

/-- The next DSMP_UPDATE runs its loop at least once (R170, R171). -/
def Dsmp.crosses (isr : F32) (g : Dsmp) : Bool := F32.gt (F32.add g.phase isr) (g.cur.period isr)

/-- The current direct entry after `k` dequeues: the last entry dequeued, or the old one (R170). -/
def Dsmp.curAfter (g : Dsmp) (k : Nat) : Current := (g.queue.take k).getLast?.elim g.cur Current.entry

/-- `ph` in DSMP_UPDATE after `k` iterations: each subtracts the period current before its dequeue (R170). -/
def Dsmp.phaseAfter (isr : F32) (g : Dsmp) : Nat → F32
  | 0 => F32.add g.phase isr
  | k + 1 => F32.sub (g.phaseAfter isr k) ((g.curAfter k).period isr)

/-- `s` in DSMP_UPDATE after `k` iterations: each adds the value current after its dequeue (R170). -/
def Dsmp.sumAfter (g : Dsmp) : Nat → F32
  | 0 => fZero
  | k + 1 => F32.add (g.sumAfter k) (g.curAfter (k + 1)).value

/-- The loop of DSMP_UPDATE would iterate once more after `k` iterations (R170). -/
def Dsmp.exceeds (isr : F32) (g : Dsmp) (k : Nat) : Bool := F32.gt (g.phaseAfter isr k) ((g.curAfter k).period isr)

/-- The next tick of a channel is a period boundary of its generator. -/
def State.crosses (isr : F32) (s : State) : Channel → Bool
  | .p1 => s.p1.acc.crosses isr
  | .p2 => s.p2.acc.crosses isr
  | .tri => s.tri.crosses isr
  | .noise => s.noise.acc.crosses isr
  | .smp => s.smp.acc.crosses isr
  | .dsmp => s.dsmp.crosses isr

/-- OUT of the generator a channel names (R28, R43). -/
def State.out (s : State) : Channel → F32
  | .p1 => s.p1.acc.out
  | .p2 => s.p2.acc.out
  | .tri => s.tri.out
  | .noise => s.noise.acc.out
  | .smp => s.smp.acc.out
  | .dsmp => s.dsmp.out

/-- Magnitude at most 2^100, which keeps the mixer and the filters far from overflow. -/
def moderate (x : F32) : Bool := decide (F32.magBits x ≤ 0x71800000)

/-- The sample histories and the filter memories are moderate. ADDSAMPLE and ADDDIRECT take any finite sample (91 N6), so
without such a bound a MIX may fault NUMERIC (R265). -/
structure State.Moderate (s : State) : Prop where
  smp : moderate s.smp.hPrev = true ∧ moderate s.smp.hCur = true
  dsmp : moderate s.dsmp.hPrev = true ∧ moderate s.dsmp.hCur = true
  f0 : moderate s.f0.xPrev = true ∧ moderate s.f0.yPrev = true
  f1 : moderate s.f1.xPrev = true ∧ moderate s.f1.yPrev = true
  f2 : moderate s.f2.yPrev = true

/-- The next UPDATE elapses at most `limit` periods, from a phase that stays finite (R110, R115). -/
def Phasor.CountWithin (isr : F32) (limit : Nat) (a : Phasor) : Prop :=
  F32.isFinite (F32.add a.phase isr) = true ∧
    ∀ p, a.period = some p → F32.units (F32.add a.phase isr) < ((limit : Int) + 1) * F32.units p

/-- How many periods a tick of SMP or DSMP may elapse for `Tickable`: enough for 2^20 moderate samples to add up far
below overflow. -/
def tickLimit : Nat := 2 ^ 20

/-- The next DSMP_UPDATE ends within `tickLimit` iterations, from a phase that stays finite, on moderate samples
(R170). -/
def Dsmp.EndsSoon (isr : F32) (g : Dsmp) : Prop :=
  F32.isFinite (F32.add g.phase isr) = true ∧ (∃ k, k ≤ tickLimit ∧ g.exceeds isr k = false) ∧
    moderate g.cur.value = true ∧ g.queue.all (fun e => moderate e.value) = true

/-- A tick of this channel is one that R110, R114, R115, R161 and R170 let complete: it is no period boundary, or every
pending parameter of the channel is written and at most N_MAX periods elapse (for SMP and DSMP `tickLimit`, on moderate
samples). -/
def State.Tickable (isr : F32) (s : State) (ch : Channel) : Prop :=
  s.crosses isr ch = false ∨ s.Pending ch ∧
    match ch with
    | .p1 => s.p1.acc.CountWithin isr Config.core.nMax
    | .p2 => s.p2.acc.CountWithin isr Config.core.nMax
    | .tri => s.tri.CountWithin isr Config.core.nMax
    | .noise => s.noise.acc.CountWithin isr Config.core.nMax
    | .smp => s.smp.acc.CountWithin isr tickLimit ∧ s.smp.queue.all moderate = true
    | .dsmp => s.dsmp.EndsSoon isr

/-! ## Invariants (R51) -/

/-- Finite and not negative; -0.0 counts as zero. -/
def nonnegFinite (x : F32) : Bool := F32.isFinite x && F32.ge x fZero

/-- The values an active volume takes: +0.0, or VOL_THRESHOLD up to `top` (R51 item 2). -/
def volumeRange (top v : F32) : Bool := decide (v = fZero) || (F32.le volThreshold v && F32.le v top)

/-- Zero up to `top`, the values a pending volume takes (R33). -/
def pendingRange (top v : F32) : Bool := F32.ge v fZero && F32.le v top

/-- The shared registers keep R51 items 2, 3 and 5, and the phase stays below the period (R29). -/
structure Phasor.Kept (initDone : Bool) (a : Phasor) : Prop where
  phase : nonnegFinite a.phase = true
  period : a.period.all (positiveFinite Config.core) = true
  nextPeriod : a.nextPeriod.all (positiveFinite Config.core) = true
  volume : volumeRange fOne a.volume = true
  nextVolume : a.nextVolume.all (pendingRange fOne) = true
  out : F32.isFinite a.out = true
  wrapped : a.period.all (F32.lt a.phase) = true
  written : initDone = true → a.period.isSome = true

/-- P1 or P2: besides, both duties lie in [0, 1], and DUTY is written before it is read, because the first update after
INIT commits (R35). -/
structure Pulse.Kept (initDone : Bool) (invSr : Reg) (g : Pulse) : Prop where
  acc : g.acc.Kept initDone
  duty : g.duty.all (inUnit Config.core) = true
  nextDuty : g.nextDuty.all (inUnit Config.core) = true
  fresh : initDone = true → g.duty = none → g.acc.phase = fZero ∧ g.acc.period = invSr

/-- NOISE: besides, LFSR is not 0 (item 1), ACC is in [0, 1] (item 4), and the output it keeps is in [0, VOLUME] (R135). -/
structure Noise.Kept (initDone : Bool) (g : Noise) : Prop where
  acc : g.acc.Kept initDone
  lfsr : g.lfsr ≠ 0#15
  average : inUnit Config.core g.average = true
  held : pendingRange g.acc.volume g.acc.out = true

/-- SMP: besides, queue and history are finite. -/
structure Smp.Kept (initDone : Bool) (g : Smp) : Prop where
  acc : g.acc.Kept initDone
  queue : g.queue.all F32.isFinite = true
  history : F32.isFinite g.hPrev = true ∧ F32.isFinite g.hCur = true

/-- An entry ADDDIRECT accepts (R175). -/
def Entry.ok (e : Entry) : Bool := positiveFinite Config.core e.period && F32.isFinite e.value

/-- IDLE, or an entry that was accepted. -/
def Current.ok : Current → Bool
  | .idle => true
  | .entry e => e.ok

/-- DSMP: its volume goes up to 2.5, and its phase does not exceed its current period (R170). -/
structure Dsmp.Kept (invSr : Reg) (g : Dsmp) : Prop where
  phase : nonnegFinite g.phase = true
  volume : volumeRange directGain g.volume = true
  nextVolume : g.nextVolume.all (pendingRange directGain) = true
  out : F32.isFinite g.out = true
  queue : g.queue.all Entry.ok = true
  history : F32.isFinite g.hPrev = true ∧ F32.isFinite g.hCur = true
  cur : g.cur.ok = true
  wrapped : invSr.all (fun isr => F32.le g.phase (g.cur.period isr)) = true

/-- F0 or F1: finite registers, a coefficient in [0, 1], written once INIT has run (R45, R201). -/
structure HighPass.Kept (initDone : Bool) (f : HighPass) : Prop where
  regs : f.sr.all F32.isFinite = true ∧ f.fc.all F32.isFinite = true
  alpha : f.alpha.all (inUnit Config.core) = true
  memory : F32.isFinite f.xPrev = true ∧ F32.isFinite f.yPrev = true
  written : initDone = true → f.alpha.isSome = true

/-- F2, likewise (R45, R202). -/
structure LowPass.Kept (initDone : Bool) (f : LowPass) : Prop where
  regs : f.sr.all F32.isFinite = true ∧ f.fc.all F32.isFinite = true
  alpha : f.alpha.all (inUnit Config.core) = true
  memory : F32.isFinite f.yPrev = true
  written : initDone = true → f.alpha.isSome = true

/-- The invariants of the whole core: R51, with the fault registers as R25 to R27 and R261 give them. -/
structure State.Inv (s : State) : Prop where
  invSr : s.invSr.all (positiveFinite Config.core) = true
  written : s.initDone = true → s.invSr.isSome = true
  noFault : s.faultValid = false → s.faultCause = 0#4 ∧ s.faultHdr = 0#32
  fault : s.faultValid = true → 1 ≤ s.faultCause.toNat ∧ s.faultCause.toNat ≤ 12
  p1 : s.p1.Kept s.initDone s.invSr
  p2 : s.p2.Kept s.initDone s.invSr
  tri : s.tri.Kept s.initDone
  noise : s.noise.Kept s.initDone
  smp : s.smp.Kept s.initDone
  dsmp : s.dsmp.Kept s.invSr
  f0 : s.f0.Kept s.initDone
  f1 : s.f1.Kept s.initDone
  f2 : s.f2.Kept s.initDone
  results : s.results.all F32.isFinite = true

end Sys2Proof.Machine
end

