-- ==== Sys2Proof/Certificates/Slice0/Obligations.lean ====
section
/-! DEFINITION. The statements about the model. Each docstring names the rule of spec/ it formalises; OBLIGATIONS.json
says the same with quotes. `Config.core` is this core's parameters; a statement about a `Config` holds for every value,
and where it writes an operation of `F32` it has the premise that NUM_FMT is binary32. -/

open Sys2Proof Sys2Proof.Machine

/-! ## Encoding (30_encoding.md) -/

/-- A word sequence begins with a command exactly when it begins with that command's encoding (R80 to R84). -/
def Obligations.DecodeIsInverseOfEncode : Prop :=
  ∀ (i : Instr) (ws rest : List Word),
    decode ws = .ok (i, rest) ↔ i.wellFormed = true ∧ ws = encode i ++ rest

/-- R85: a header selects a command exactly when a row's mask and pattern select it, and the rows never overlap. -/
def Obligations.HeaderLegalIffOneTableRowSelects : Prop :=
  ∀ (h : Word) (a b : F32),
    (∀ i, decodeCommand h a b = .ok i → ∃ r ∈ opcodeRows, r.opcode = i.opcode ∧ r.selects h = true) ∧
    (∀ r ∈ opcodeRows, r.selects h = true → ∃ i, decodeCommand h a b = .ok i ∧ i.opcode = r.opcode) ∧
    (∀ r ∈ opcodeRows, ∀ r' ∈ opcodeRows, r.selects h = true → r'.selects h = true → r = r')

/-- R86: its six items are exactly the illegal headers, each raises ILLEGAL_COMMAND (cause 1) once its words are
delivered, and every other header is some command's own. -/
def Obligations.IllegalHeadersAreTheSixItems : Prop :=
  ∀ (s : State) (h : Word) (ws : List Word),
    s.port = h :: ws → operandCount h ≤ ws.length → s.faultValid = false →
    let op := (headerOp h).toNat
    let ch := (headerCh h).toNat
    let illegal :=
      (op = 0 ∨ 0xB ≤ op) ∨
      ((op = 4 ∨ op = 5 ∨ op = 6) ∧ (ch = 6 ∨ ch = 7)) ∨
      (op = 7 ∧ ch ≠ 0 ∧ ch ≠ 1) ∨
      ((op = 1 ∨ op = 2 ∨ op = 3 ∨ op = 8 ∨ op = 9 ∨ op = 0xA) ∧ ch ≠ 0) ∨
      headerRsv h ≠ 0#24 ∨
      (headerB h = true ∧ op ≠ 8)
    (illegal → step s = .next { s with
        port := ws.drop (operandCount h), faultValid := true, faultCause := 1#4, faultHdr := h }) ∧
    (¬ illegal → ∃ i, decode s.port = .ok (i, ws.drop (operandCount h)) ∧ headerOf i = h)

/-- R92: each worked encoding, from its assembly text (R90) to its words and back to its command. -/
def Obligations.WorkedEncodings : Prop :=
  (∀ row ∈
      [ ("INIT 44100.0", [0x10000000#32, 0x472C4400#32], Instr.init 0x472C4400#32),
        ("CLEAR", [0x20000000#32], .clear),
        ("MIX", [0x30000000#32], .mix),
        ("GET p1", [0x40000000#32], .get .p1),
        ("GET noise", [0x46000000#32], .get .noise),
        ("GET dsmp", [0x4A000000#32], .get .dsmp),
        ("SETFREQ p1, 440.0", [0x50000000#32, 0x43DC0000#32], .setfreq .p1 0x43DC0000#32),
        ("SETFREQ tri, 220.0", [0x54000000#32, 0x435C0000#32], .setfreq .tri 0x435C0000#32),
        ("SETVOL p2, 0.5", [0x62000000#32, 0x3F000000#32], .setvol .p2 0x3F000000#32),
        ("SETVOL smp, 1.0", [0x68000000#32, 0x3F800000#32], .setvol .smp 0x3F800000#32),
        ("SETDUTY p1, 0.5", [0x70000000#32, 0x3F000000#32], .setduty .p1 0x3F000000#32),
        ("SETDUTY p2, 0.25", [0x72000000#32, 0x3E800000#32], .setduty .p2 0x3E800000#32),
        ("SETMETAL 1", [0x80000001#32], .setmetal true),
        ("SETMETAL 0", [0x80000000#32], .setmetal false),
        ("ADDSAMPLE 0.5", [0x90000000#32, 0x3F000000#32], .addsample 0x3F000000#32),
        ("ADDDIRECT 0.0001, 0.25", [0xA0000000#32, 0x38D1B717#32, 0x3E800000#32],
          .adddirect 0x38D1B717#32 0x3E800000#32) ],
    Assembler.assembleLine row.1.toList = some row.2.1 ∧ decode row.2.1 = .ok (row.2.2, [])) ∧
  (∀ h ∈ [0x4C000000#32, 0x30000001#32], ∃ why, decode [h] = .error (.illegal h why [])) ∧
  (∃ why, decode [0x74000000#32, 0#32] = .error (.illegal 0x74000000#32 why []))

/-- R66 on a transport: words survive the byte form in either order, and little-endian is V72's. -/
def Obligations.TransportBytesRoundTrip : Prop :=
  (∀ (o : ByteOrder) (ws : List Word), wordsOfBytes o (ws.flatMap (wordToBytes o)) = (ws, [])) ∧
  Config.core.byteOrder = .little ∧
  wordToBytes .little 0x472C4400#32 = [0x00#8, 0x44#8, 0x2C#8, 0x47#8]

/-! ## Steps and faults (20_memory.md, 60_exceptions.md) -/

/-- R67, with the model's choice of a named stop (log 2): without a whole command on the port there is no step. -/
def Obligations.NoStepWithoutWholeCommand : Prop :=
  (∀ s : State, s.port = [] → step s = .fault .portIdle) ∧
  (∀ (s : State) (h : Word) (ws : List Word), s.port = h :: ws → ws.length < operandCount h →
    step s = .fault .commandIncomplete)

/-- R68, R70: a step performs the command at the head of the port, on the state without its words. -/
def Obligations.StepPerformsHeadCommand : Prop :=
  ∀ (i : Instr) (rest : List Word) (s : State), i.wellFormed = true → s.port = encode i ++ rest →
    step s = exec i { s with port := rest }

/-- R76: every command completes in one step, from every state. -/
def Obligations.EveryCommandCompletesInOneStep : Prop :=
  ∀ (i : Instr) (s : State), ∃ t, exec i s = .next t

/-- R267: a faulted core accepts every command, legal or not, and nothing but the port changes. -/
def Obligations.FaultedCoreAbsorbsCommands : Prop :=
  (∀ (i : Instr) (s : State), s.faultValid = true → exec i s = .next s) ∧
  (∀ (s : State) (i : Instr) (rest : List Word), s.faultValid = true → decode s.port = .ok (i, rest) →
    step s = .next { s with port := rest }) ∧
  (∀ (s : State) (h : Word) (why : Illegal) (rest : List Word), s.faultValid = true →
    decode s.port = .error (.illegal h why rest) → step s = .next { s with port := rest })

/-- R264: a command that faults writes the three fault registers and nothing else, produces no result, and
raises FAULT_OUT. -/
def Obligations.FaultEntryIsPrecise : Prop :=
  ∀ (i : Instr) (s t : State), s.faultValid = false → exec i s = .next t → t.faultValid = true →
    s.faultOut = false ∧ t.faultOut = true ∧
    ∃ c : Cause, t = { s with faultValid := true, faultCause := c.code, faultHdr := headerOf i }

/-- R262: MIX and GET before INIT fault NOT_INITIALISED (cause 2), before any generator state matters. -/
def Obligations.TicksBeforeInitFault : Prop :=
  ∀ s : State, s.faultValid = false → s.initDone = false →
    exec .mix s = .next { s with faultValid := true, faultCause := 2#4, faultHdr := 0x30000000#32 } ∧
    ∀ ch : Channel,
      exec (.get ch) s = .next { s with faultValid := true, faultCause := 2#4, faultHdr := headerOf (.get ch) }

/-! ## Setters (41_phase_accumulator.md) -/

/-- R120: SETFREQ writes 1/hz to NEXT_PERIOD of its channel, nothing on DSMP; outside the domain it faults
BAD_FREQUENCY (cause 4). -/
def Obligations.SetfreqWritesReciprocalOrFaults : Prop :=
  ∀ (s : State) (hz : F32), s.faultValid = false →
    (F32.gt hz fZero = true → F32.isFinite hz = true → F32.isInf (F32.div fOne hz) = false →
      exec (.setfreq .p1 hz) s
        = .next { s with p1 := { s.p1 with acc := { s.p1.acc with nextPeriod := some (F32.div fOne hz) } } } ∧
      exec (.setfreq .p2 hz) s
        = .next { s with p2 := { s.p2 with acc := { s.p2.acc with nextPeriod := some (F32.div fOne hz) } } } ∧
      exec (.setfreq .tri hz) s = .next { s with tri := { s.tri with nextPeriod := some (F32.div fOne hz) } } ∧
      exec (.setfreq .noise hz) s
        = .next { s with noise := { s.noise with acc := { s.noise.acc with nextPeriod := some (F32.div fOne hz) } } } ∧
      exec (.setfreq .smp hz) s
        = .next { s with smp := { s.smp with acc := { s.smp.acc with nextPeriod := some (F32.div fOne hz) } } } ∧
      exec (.setfreq .dsmp hz) s = .next s) ∧
    (F32.gt hz fZero = false ∨ F32.isFinite hz = false ∨ F32.isInf (F32.div fOne hz) = true → ∀ ch,
      exec (.setfreq ch hz) s
        = .next { s with faultValid := true, faultCause := 4#4, faultHdr := headerOf (.setfreq ch hz) })

/-- R120, 90 C8: the reciprocal of a positive finite hz overflows exactly up to the pattern 0x00200000. -/
def Obligations.ReciprocalOverflowsUpTo2PowMinus128 : Prop :=
  ∀ hz : F32, 0 < hz.toNat → hz.toNat < 0x7F800000 →
    (F32.isInf (F32.div fOne hz) = true ↔ hz.toNat ≤ 0x00200000)

/-- R121, R176: SETVOL stores v, for DSMP 2.5 * v; outside [0, 1] it faults BAD_VOLUME (cause 5). -/
def Obligations.SetvolWritesPendingVolumeOrFaults : Prop :=
  ∀ (s : State) (v : F32), s.faultValid = false →
    (F32.ge v fZero = true → F32.le v fOne = true →
      exec (.setvol .p1 v) s
        = .next { s with p1 := { s.p1 with acc := { s.p1.acc with nextVolume := some v } } } ∧
      exec (.setvol .p2 v) s
        = .next { s with p2 := { s.p2 with acc := { s.p2.acc with nextVolume := some v } } } ∧
      exec (.setvol .tri v) s = .next { s with tri := { s.tri with nextVolume := some v } } ∧
      exec (.setvol .noise v) s
        = .next { s with noise := { s.noise with acc := { s.noise.acc with nextVolume := some v } } } ∧
      exec (.setvol .smp v) s
        = .next { s with smp := { s.smp with acc := { s.smp.acc with nextVolume := some v } } } ∧
      exec (.setvol .dsmp v) s
        = .next { s with dsmp := { s.dsmp with nextVolume := some (F32.mul 0x40200000#32 v) } } ∧
      F32.ge (F32.mul 0x40200000#32 v) fZero = true ∧ F32.le (F32.mul 0x40200000#32 v) 0x40200000#32 = true) ∧
    (F32.ge v fZero = false ∨ F32.le v fOne = false → ∀ ch,
      exec (.setvol ch v) s
        = .next { s with faultValid := true, faultCause := 5#4, faultHdr := headerOf (.setvol ch v) })

/-- R122: SETDUTY stores d for P1 or P2; outside [0, 1] it faults BAD_DUTY (cause 6). The last clause is about the
ill-formed term with another channel, which the decoder never gives: that `exec` raises ILLEGAL_COMMAND on it is the
model's own (DEDUCED, log 13); what a step does on such a header is R86's. -/
def Obligations.SetdutyWritesPendingDutyOrFaults : Prop :=
  ∀ (s : State) (d : F32), s.faultValid = false →
    (F32.ge d fZero = true → F32.le d fOne = true →
      exec (.setduty .p1 d) s = .next { s with p1 := { s.p1 with nextDuty := some d } } ∧
      exec (.setduty .p2 d) s = .next { s with p2 := { s.p2 with nextDuty := some d } }) ∧
    (F32.ge d fZero = false ∨ F32.le d fOne = false → ∀ ch, ch = .p1 ∨ ch = .p2 →
      exec (.setduty ch d) s
        = .next { s with faultValid := true, faultCause := 6#4, faultHdr := headerOf (.setduty ch d) }) ∧
    (∀ ch, ch ≠ .p1 → ch ≠ .p2 →
      exec (.setduty ch d) s
        = .next { s with faultValid := true, faultCause := 1#4, faultHdr := headerOf (.setduty ch d) })

/-- R123: SETMETAL writes METALLIC at once and nothing else. -/
def Obligations.SetmetalWritesFlagAtOnce : Prop :=
  ∀ (s : State) (b : Bool), s.faultValid = false →
    exec (.setmetal b) s = .next { s with noise := { s.noise with metallic := b } }

/-! ## Phase accumulator (R110 to R115) -/

/-- R110, no crossing: only the phase moves, and n = 0. -/
def Obligations.UpdateBelowPeriodOnlyMovesPhase : Prop :=
  ∀ (c : Config) (isr p : F32), c.num = NumFmt.binary32 →
    (∀ a : Phasor, a.period = some p → F32.isFinite (F32.add a.phase isr) = true →
      F32.ge (F32.add a.phase isr) p = false →
      phasorUpdate c isr a = .ok ({ a with phase := F32.add a.phase isr }, 0)) ∧
    (∀ g : Pulse, g.acc.period = some p → F32.isFinite (F32.add g.acc.phase isr) = true →
      F32.ge (F32.add g.acc.phase isr) p = false →
      pulseUpdate c isr g = .ok ({ g with acc := { g.acc with phase := F32.add g.acc.phase isr } }, 0))

/-- R110 to R114, a crossing: with n whole old periods in `ph`, at most N_MAX, the pending period, volume (+0.0 below
0.01) and duty become active together, and the phase is `ph` modulo the new period. -/
def Obligations.UpdateAtCrossingCommitsAndWraps : Prop :=
  ∀ (c : Config) (isr ph p p' v : F32) (n : Nat), c.num = NumFmt.binary32 →
    F32.isFinite ph = true → F32.ge ph p = true → 0 < F32.units p →
    (n : Int) * F32.units p ≤ F32.units ph → F32.units ph < ((n : Int) + 1) * F32.units p → n ≤ c.nMax →
    F32.isFinite (F32.fmod ph p') = true →
    (∀ a : Phasor, F32.add a.phase isr = ph → a.period = some p → a.nextPeriod = some p' → a.nextVolume = some v →
      phasorUpdate c isr a = .ok
        ({ a with
            phase := F32.fmod ph p', period := some p'
            volume := if F32.lt v 0x3C23D70A#32 then fZero else v }, n)) ∧
    (∀ (g : Pulse) (d : F32), F32.add g.acc.phase isr = ph → g.acc.period = some p → g.acc.nextPeriod = some p' →
      g.acc.nextVolume = some v → g.nextDuty = some d →
      pulseUpdate c isr g = .ok
        ({ g with
            acc :=
              { g.acc with
                phase := F32.fmod ph p', period := some p'
                volume := if F32.lt v 0x3C23D70A#32 then fZero else v }
            duty := some d }, n))

/-- R114, R115, R266: at a crossing a count above N_MAX raises COUNT_OVERFLOW whatever is pending; otherwise a pending
parameter that was never written raises UNWRITTEN_PARAM. -/
def Obligations.CrossingFaultsInOrder : Prop :=
  ∀ (c : Config) (isr ph p : F32) (g : Pulse), c.num = NumFmt.binary32 →
    F32.add g.acc.phase isr = ph → F32.isFinite ph = true → g.acc.period = some p → F32.ge ph p = true →
    0 < F32.units p →
    (((c.nMax : Int) + 1) * F32.units p ≤ F32.units ph →
      pulseUpdate c isr g = .error .countOverflow ∧ phasorUpdate c isr g.acc = .error .countOverflow) ∧
    (F32.units ph < ((c.nMax : Int) + 1) * F32.units p →
      (g.acc.nextPeriod = none ∨ g.acc.nextVolume = none →
        pulseUpdate c isr g = .error .unwrittenParam ∧ phasorUpdate c isr g.acc = .error .unwrittenParam) ∧
      (g.nextDuty = none → pulseUpdate c isr g = .error .unwrittenParam))

/-- R264 to R266, R114, R115, R170 at a command: a GET records the fault of its generator's get and a MIX that of the
first get that fails, in channel order, then NUMERIC where a product, a partial sum, the mean or a filter is not finite.
Besides, from the generators' registers: when a get faults NUMERIC (cause 12), COUNT_OVERFLOW (10) or UNWRITTEN_PARAM
(9). -/
def Obligations.TickFaultsRecordTheirCause : Prop :=
  ∀ (s : State) (isr : F32), s.faultValid = false → s.initDone = true → s.invSr = some isr →
    let faults := fun (i : Instr) (cause : BitVec 4) =>
      exec i s = .next { s with faultValid := true, faultCause := cause, faultHdr := headerOf i }
    let out := fun {α : Type} (x : Except Cause (α × F32)) => x.map Prod.snd
    let gets : List (Channel × Except Cause F32) :=
      [ (.p1, out (pulseGet Config.core isr s.p1)), (.p2, out (pulseGet Config.core isr s.p2)),
        (.tri, out (triGet Config.core isr s.tri)), (.noise, out (noiseGet Config.core isr s.noise)),
        (.smp, out (smpGet Config.core isr s.smp)), (.dsmp, out (dsmpGet Config.core isr s.dsmp)) ]
    (∀ ch cause, (ch, .error cause) ∈ gets → faults (.get ch) cause.code) ∧
    (∀ done ch cause rest, gets = done ++ (ch, .error cause) :: rest → (∀ g ∈ done, ∃ o, g.2 = .ok o) →
      faults .mix cause.code) ∧
    (∀ o0 o1 o2 o3 o4 o5, gets.map Prod.snd = [.ok o0, .ok o1, .ok o2, .ok o3, .ok o4, .ok o5] →
      let half := fun o => F32.mul 0x3F000000#32 o
      let s1 := F32.add (half o0) (half o1)
      let s2 := F32.add s1 (half o2)
      let s3 := F32.add s2 (F32.mul 0x3F800000#32 o3)
      let s4 := F32.add s3 (F32.mul 0x3FC00000#32 o4)
      let s5 := F32.add s4 (F32.mul 0x3FC00000#32 o5)
      let m := F32.div s5 0x40B00000#32
      let sums := [half o0, half o1, s1, half o2, s2, F32.mul 0x3F800000#32 o3, s3, F32.mul 0x3FC00000#32 o4, s4,
        F32.mul 0x3FC00000#32 o5, s5, m]
      ((∃ x ∈ sums, F32.isFinite x = false) → faults .mix 12#4) ∧
      ((∀ x ∈ sums, F32.isFinite x = true) → filterChain Config.core s m = .error .numeric → faults .mix 12#4)) ∧
    (s.Inv →
      (∀ row ∈ [(Channel.p1, s.p1.acc), (.p2, s.p2.acc), (.tri, s.tri), (.noise, s.noise.acc), (.smp, s.smp.acc)],
        let ph := F32.add row.2.phase isr
        (F32.isFinite ph = false → faults (.get row.1) 12#4) ∧
        (∀ p, row.2.period = some p → F32.isFinite ph = true →
          ((Config.core.nMax : Int) + 1) * F32.units p ≤ F32.units ph → faults (.get row.1) 10#4) ∧
        (row.2.crosses isr = true → row.2.CountWithin isr Config.core.nMax → ¬ s.Pending row.1 →
          faults (.get row.1) 9#4)) ∧
      (F32.isFinite (s.dsmp.phaseAfter isr 0) = false → faults (.get .dsmp) 12#4) ∧
      (∀ k, s.dsmp.queue.length ≤ k → F32.isFinite (s.dsmp.phaseAfter isr 0) = true →
        (∀ j ≤ k, s.dsmp.exceeds isr j = true) → s.dsmp.phaseAfter isr (k + 1) = s.dsmp.phaseAfter isr k →
        moderate s.dsmp.cur.value = true → s.dsmp.queue.all (fun e => moderate e.value) = true →
        faults (.get .dsmp) 10#4) ∧
      (F32.isFinite (s.dsmp.phaseAfter isr 0) = true → s.dsmp.exceeds isr 0 = true → s.dsmp.exceeds isr 1 = false →
        ¬ s.Pending .dsmp → faults (.get .dsmp) 9#4))

/-- R293: after an INIT that succeeds, the first update of P1, P2, TRI, NOISE and SMP crosses with n = 1, and it commits
the pending parameters where they are written; the first DSMP tick does not iterate. -/
def Obligations.FirstTickAfterInitCommits : Prop :=
  ∀ (sr : F32) (s t : State), exec (.init sr) s = .next t → t.faultValid = false →
    ∃ isr, t.invSr = some isr ∧
      (∀ a ∈ [t.p1.acc, t.p2.acc, t.tri, t.noise.acc, t.smp.acc],
        a.period = some isr ∧ phaseStep Config.core isr a.phase isr = .ok (isr, some 1)) ∧
      (∀ a ∈ [t.tri, t.noise.acc, t.smp.acc], ∀ p v, a.nextPeriod = some p → a.nextVolume = some v →
        F32.gt p fZero = true → F32.isFinite p = true → phasorUpdate Config.core isr a = .ok
          ({ a with
              phase := F32.fmod isr p, period := some p, volume := if F32.lt v 0x3C23D70A#32 then fZero else v }, 1)) ∧
      (∀ g ∈ [t.p1, t.p2], ∀ p v d, g.acc.nextPeriod = some p → g.acc.nextVolume = some v → g.nextDuty = some d →
        F32.gt p fZero = true → F32.isFinite p = true → pulseUpdate Config.core isr g = .ok
          ({ g with
              acc :=
                { g.acc with
                  phase := F32.fmod isr p, period := some p, volume := if F32.lt v 0x3C23D70A#32 then fZero else v }
              duty := some d }, 1)) ∧
      F32.gt (F32.add t.dsmp.phase isr) (t.dsmp.cur.period isr) = false

/-- R71, R111 to R113, R171: no command but INIT changes an active parameter of a generator whose next tick is not a
period boundary. The current direct entry is one but for CLEAR, which makes it IDLE at any time (R180). -/
def Obligations.ActiveParametersChangeOnlyAtCrossings : Prop :=
  ∀ (i : Instr) (s t : State), (∀ sr, i ≠ .init sr) → exec i s = .next t →
    let still := fun ch => ∀ isr, s.invSr = some isr → s.crosses isr ch = false
    (still .p1 → t.p1.acc.period = s.p1.acc.period ∧ t.p1.acc.volume = s.p1.acc.volume ∧ t.p1.duty = s.p1.duty) ∧
    (still .p2 → t.p2.acc.period = s.p2.acc.period ∧ t.p2.acc.volume = s.p2.acc.volume ∧ t.p2.duty = s.p2.duty) ∧
    (still .tri → t.tri.period = s.tri.period ∧ t.tri.volume = s.tri.volume) ∧
    (still .noise → t.noise.acc.period = s.noise.acc.period ∧ t.noise.acc.volume = s.noise.acc.volume ∧
      t.noise.lfsr = s.noise.lfsr) ∧
    (still .smp → t.smp.acc.period = s.smp.acc.period ∧ t.smp.acc.volume = s.smp.acc.volume) ∧
    (still .dsmp → t.dsmp.volume = s.dsmp.volume ∧ (i ≠ .clear → t.dsmp.cur = s.dsmp.cur))

/-- R141, R304: setters issued before a tick that does not cross, in any number, change nothing that tick outputs. A GET
that does not cross has the same OUT and result word; in a MIX every generator that does not cross has the same OUT, and
where none crosses the result word is the same. -/
def Obligations.SettersDoNotTouchAnUncrossedTick : Prop :=
  ∀ s s' t : State, s.Reaches (fun i => i.isSetter = true) s' → s'.faultValid = false → t.faultValid = false →
    let still := fun ch => ∀ isr, s.invSr = some isr → s.crosses isr ch = false
    (∀ ch, still ch → exec (.get ch) s = .next t →
      ∃ t', exec (.get ch) s' = .next t' ∧ t'.faultValid = false ∧ t'.out ch = t.out ch ∧ t'.results = t.results) ∧
    (exec .mix s = .next t →
      (∀ ch t', still ch → exec .mix s' = .next t' → t'.faultValid = false → t'.out ch = t.out ch) ∧
      ((∀ ch, still ch) →
        ∃ t', exec .mix s' = .next t' ∧ t'.faultValid = false ∧ t'.out = t.out ∧ t'.results = t.results))

/-! ## Pulse, triangle, noise (R130 to R142) -/

/-- R130: the pulse output is +VOLUME while PHASE <= DUTY * PERIOD, after the update, and -VOLUME otherwise. -/
def Obligations.PulseOutputIsPlusOrMinusVolume : Prop :=
  ∀ (c : Config) (isr o : F32) (g t : Pulse), c.num = NumFmt.binary32 → pulseGet c isr g = .ok (t, o) →
    ∃ g' n p d, pulseUpdate c isr g = .ok (g', n) ∧ t = { g' with acc := { g'.acc with out := o } } ∧
      g'.acc.period = some p ∧ g'.duty = some d ∧
      o = if F32.le g'.acc.phase (F32.mul d p) then g'.acc.volume else F32.neg g'.acc.volume

/-- R131: for a phase below a positive period the ratio t is in [0, 1). -/
def Obligations.TriangleRatioBelowOne : Prop :=
  ∀ a b : F32, F32.isFinite a = true → F32.isFinite b = true → F32.ge a fZero = true → F32.lt a b = true →
    F32.isFinite (F32.div a b) = true ∧ F32.ge (F32.div a b) fZero = true ∧ F32.lt (F32.div a b) fOne = true

/-- R131: the triangle output, with every intermediate finite. -/
def Obligations.TriangleOutputFormula : Prop :=
  ∀ (c : Config) (isr o : F32) (a b : Phasor), c.num = NumFmt.binary32 → triGet c isr a = .ok (b, o) →
    ∃ a' n p, phasorUpdate c isr a = .ok (a', n) ∧ b = { a' with out := o } ∧ a'.period = some p ∧
      let t := F32.div a'.phase p
      let y := if F32.lt t 0x3F000000#32 then F32.sub (F32.mul 0x40800000#32 t) 0x3F800000#32
               else F32.sub 0x40400000#32 (F32.mul 0x40800000#32 t)
      o = F32.mul y a'.volume

/-- R134: bit 14 after an advance is bit 0 XOR the tap (bit 6 in metallic mode, else bit 1); every other bit is the one
above it. -/
def Obligations.LfsrAdvanceShiftsInFeedback : Prop :=
  ∀ (m : Bool) (r : Lfsr),
    (lfsrAdvance m r).getLsbD 14 = (r.getLsbD 0 ^^ r.getLsbD (if m then 6 else 1)) ∧
    ∀ k < 14, (lfsrAdvance m r).getLsbD k = r.getLsbD (k + 1)

/-- R37: the advance is a bijection that maps 0 to 0, so a nonzero register never reaches 0. -/
def Obligations.LfsrAdvanceIsInjectiveAndNeverZero : Prop :=
  ∀ m : Bool, Function.Injective (lfsrAdvance m) ∧ lfsrAdvance m 0#15 = 0#15 ∧ ∀ r, r ≠ 0#15 → lfsrAdvance m r ≠ 0#15

/-- R136: from seed 0x0001 the register first returns after 32767 advances, in metallic mode after 93. -/
def Obligations.LfsrCycleLengths : Prop :=
  ((lfsrAdvance false)^[32767] 0x0001#15 = 0x0001#15 ∧
    ∀ k, 0 < k → k < 32767 → (lfsrAdvance false)^[k] 0x0001#15 ≠ 0x0001#15) ∧
  ((lfsrAdvance true)^[93] 0x0001#15 = 0x0001#15 ∧
    ∀ k, 0 < k → k < 93 → (lfsrAdvance true)^[k] 0x0001#15 ≠ 0x0001#15)

/-- R135: with n = 0 the output, LFSR and ACC stay; with n > 0 the output is the fraction of the n advances whose bit 0
before the shift was set, times the volume. -/
def Obligations.NoiseOutputIsFractionOfSetBits : Prop :=
  ∀ (isr o : F32) (g t : Noise), noiseGet Config.core isr g = .ok (t, o) →
    ∃ a n, phasorUpdate Config.core isr g.acc = .ok (a, n) ∧
      (n = 0 → t = { g with acc := a } ∧ o = a.out ∧ a.out = g.acc.out) ∧
      (0 < n →
        let count := ((List.range n).filter fun k => ((lfsrAdvance g.metallic)^[k] g.lfsr).getLsbD 0).length
        let avg := F32.div (F32.ofNat count) (F32.ofNat n)
        o = F32.mul avg a.volume ∧
        t = { g with acc := { a with out := o }, lfsr := (lfsrAdvance g.metallic)^[n] g.lfsr, average := avg })

/-- R140: from a state that keeps the invariants, no tick of P1, P2, TRI or NOISE, by GET or by MIX, outputs more than
the volume then active. -/
def Obligations.OutputMagnitudeWithinVolume : Prop :=
  ∀ (s t : State) (i : Instr), s.Inv → s.faultValid = false → exec i s = .next t → t.faultValid = false →
    (i = .mix ∨ i = .get .p1 → F32.magBits t.p1.acc.out = F32.magBits t.p1.acc.volume) ∧
    (i = .mix ∨ i = .get .p2 → F32.magBits t.p2.acc.out = F32.magBits t.p2.acc.volume) ∧
    (i = .mix ∨ i = .get .tri → F32.magBits t.tri.out ≤ F32.magBits t.tri.volume) ∧
    (i = .mix ∨ i = .get .noise → F32.magBits t.noise.acc.out ≤ F32.magBits t.noise.acc.volume)

/-! ## Sample generators (42_resampling.md) -/

/-- R160: ADDSAMPLE appends any finite sample and changes nothing else; otherwise it faults BAD_SAMPLE (cause 7). -/
def Obligations.AddsampleAppendsOrFaults : Prop :=
  ∀ (s : State) (x : F32), s.faultValid = false →
    (F32.isFinite x = true → exec (.addsample x) s = .next { s with smp := { s.smp with queue := s.smp.queue ++ [x] } }) ∧
    (F32.isFinite x = false →
      exec (.addsample x) s = .next { s with faultValid := true, faultCause := 7#4, faultHdr := 0x90000000#32 })

/-- R175: ADDDIRECT appends an entry with a positive finite period and a finite sample and changes nothing else; the
period (cause 8) is checked before the sample (cause 7). -/
def Obligations.AdddirectAppendsOrFaults : Prop :=
  ∀ (s : State) (p x : F32), s.faultValid = false →
    (F32.gt p fZero = true → F32.isFinite p = true →
      (F32.isFinite x = true → exec (.adddirect p x) s
        = .next { s with dsmp := { s.dsmp with queue := s.dsmp.queue ++ [{ period := p, value := x }] } }) ∧
      (F32.isFinite x = false → exec (.adddirect p x) s
        = .next { s with faultValid := true, faultCause := 7#4, faultHdr := 0xA0000000#32 })) ∧
    (F32.gt p fZero = false ∨ F32.isFinite p = false → exec (.adddirect p x) s
      = .next { s with faultValid := true, faultCause := 8#4, faultHdr := 0xA0000000#32 })

/-- R65, for every parameter value and both queues: below Q_CAP an enqueue appends (that Q_LIMIT is not looked at there is
the model's reading, DEDUCED, log 10); at or above it GROW appends unless a finite Q_LIMIT would be exceeded, and
DROP_OLDEST keeps the length. ADDSAMPLE and ADDDIRECT of the machine with those parameters store the queue so made, or
fault QUEUE_OVERFLOW (cause 11). -/
def Obligations.EnqueueFollowsOverflowPolicy : Prop :=
  (∀ (α : Type) (c : Config) (q : List α) (e : α),
    (q.length < c.qCap → enqueue c q e = .ok (q ++ [e])) ∧
    (c.qCap ≤ q.length → c.overflowPolicy = .grow →
      (c.qLimit = none → enqueue c q e = .ok (q ++ [e])) ∧
      (∀ l, c.qLimit = some l →
        (q.length + 1 ≤ l → enqueue c q e = .ok (q ++ [e])) ∧
        (l < q.length + 1 → enqueue c q e = .error .queueOverflow))) ∧
    (c.qCap ≤ q.length → c.overflowPolicy = .dropOldest →
      enqueue c q e = .ok (q.tail ++ [e]) ∧ (q.length = c.qCap → 0 < c.qCap → (q.tail ++ [e]).length = c.qCap))) ∧
  (∀ (c : Config) (s : State) (p x : F32), s.faultValid = false → c.num.isFinite x = true →
    (∀ q, enqueue c s.smp.queue x = .ok q →
      execWith c (.addsample x) s = .next { s with smp := { s.smp with queue := q } }) ∧
    (enqueue c s.smp.queue x = .error .queueOverflow → execWith c (.addsample x) s
      = .next { s with faultValid := true, faultCause := 11#4, faultHdr := 0x90000000#32 }) ∧
    (c.num.lt fZero p = true → c.num.isFinite p = true →
      (∀ q, enqueue c s.dsmp.queue { period := p, value := x } = .ok q →
        execWith c (.adddirect p x) s = .next { s with dsmp := { s.dsmp with queue := q } }) ∧
      (enqueue c s.dsmp.queue { period := p, value := x } = .error .queueOverflow → execWith c (.adddirect p x) s
        = .next { s with faultValid := true, faultCause := 11#4, faultHdr := 0xA0000000#32 }))) ∧
  Config.core.overflowPolicy = .grow ∧ Config.core.qCap = 256 ∧ Config.core.qLimit = none

/-- R180: CLEAR empties and zeroes the two sample channels and changes nothing else; it is legal before INIT. -/
def Obligations.ClearResetsSampleChannelsOnly : Prop :=
  ∀ s : State, s.faultValid = false →
    exec .clear s = .next
      { s with
        smp :=
          { s.smp with
            acc := { s.smp.acc with phase := 0x00000000#32, out := 0x00000000#32 }
            queue := [], hPrev := 0x00000000#32, hCur := 0x00000000#32 }
        dsmp :=
          { s.dsmp with
            phase := 0x00000000#32, out := 0x00000000#32, queue := [], hPrev := 0x00000000#32, hCur := 0x00000000#32
            cur := .idle } }

/-- R161: SMP_GET from its update's n. n > 1: n dequeues summed in order from +0.0, EMPTY counting +0.0, divided by n;
the average goes into the history. n = 1 takes one sample into the history and n = 0 none; then the output is the
interpolation at t = PHASE / PERIOD. All times the volume. -/
def Obligations.BufferedOutputFormula : Prop :=
  ∀ (c : Config) (isr o : F32) (g t : Smp), c.num = NumFmt.binary32 → smpGet c isr g = .ok (t, o) →
    ∃ a n, phasorUpdate c isr g.acc = .ok (a, n) ∧
      (1 < n →
        let sum := ((List.range n).map fun k => g.queue.getD k fZero).foldl F32.add fZero
        let avg := F32.div sum (F32.ofNat n)
        o = F32.mul avg a.volume ∧
        t = { acc := { a with out := o }, queue := g.queue.drop n, hPrev := g.hCur, hCur := avg }) ∧
      (n = 1 → ∃ p y, a.period = some p ∧ interp c g.hCur (g.queue.getD 0 fZero) (F32.div a.phase p) = .ok y ∧
        o = F32.mul y a.volume ∧
        t = { acc := { a with out := o }, queue := g.queue.drop 1, hPrev := g.hCur, hCur := g.queue.getD 0 fZero }) ∧
      (n = 0 → ∃ p y, a.period = some p ∧ interp c g.hPrev g.hCur (F32.div a.phase p) = .ok y ∧
        o = F32.mul y a.volume ∧ t = { g with acc := { a with out := o } })

/-- R152: INTERP is hp * (1 - mu2) + hc * mu2 with mu2 = (1 - COS(t * PI)) * 0.5, each operation rounded in this order;
it faults NUMERIC when one of them is not finite (R265). By 93 U29 it starts at the previous sample (t = 0) and ends at the
current one (t = 1). -/
def Obligations.InterpolationIsRaisedCosine : Prop :=
  (∀ (c : Config) (hp hc t : F32), c.num = NumFmt.binary32 →
    let angle := F32.mul t 0x40490FDB#32
    let co := c.cos angle
    let d := F32.sub 0x3F800000#32 co
    let mu2 := F32.mul d 0x3F000000#32
    let rest := F32.sub 0x3F800000#32 mu2
    let y := F32.add (F32.mul hp rest) (F32.mul hc mu2)
    interp c hp hc t =
      if [angle, co, d, mu2, rest, F32.mul hp rest, F32.mul hc mu2, y].all F32.isFinite then .ok y
      else .error .numeric) ∧
  ∀ hp hc : F32, F32.isFinite hp = true → F32.isFinite hc = true →
    (∃ r, interp Config.core hp hc fZero = .ok r ∧ F32.units r = F32.units hp) ∧
    (∃ r, interp Config.core hp hc fOne = .ok r ∧ F32.units r = F32.units hc)

/-- R170, R171: the direct loop takes one entry an iteration and runs exactly while the phase exceeds the current period;
PHASE is what the successive subtractions leave (`phaseAfter`), s the sum of the values that became current, a reused
entry repeating its own (`sumAfter`), CUR the last entry taken (`curAfter`). With an iteration the pending volume is
committed. -/
def Obligations.DirectUpdateConsumesOneEntryPerIteration : Prop :=
  ∀ (c : Config) (isr s : F32) (g t : Dsmp) (n : Nat), c.num = NumFmt.binary32 →
    dsmpUpdate c isr g = .ok (t, n, s) →
    n ≤ c.nMax ∧ (∀ k < n, g.exceeds isr k = true) ∧ g.exceeds isr n = false ∧ s = g.sumAfter n ∧
    (n = 0 → t = { g with phase := F32.add g.phase isr }) ∧
    (0 < n → ∃ v, g.nextVolume = some v ∧
      t = { g with
        phase := g.phaseAfter isr n, cur := g.curAfter n, queue := g.queue.drop n
        volume := if F32.lt v 0x3C23D70A#32 then fZero else v })

/-- R170, 93 U9: a loop that makes no progress, on an entry that is reused, ends with COUNT_OVERFLOW, however many more
iterations (`room`) N_MAX allows, while the partial sums of the entry's value stay finite; with NUMERIC when one does not
(R265). They stay finite for every value up to 2^100. -/
def Obligations.DirectLoopWithoutProgressFaults : Prop :=
  ∀ (isr : F32) (room : Nat) (l : DirectLoop), l.queue = [] →
    F32.gt l.ph (l.cur.period isr) = true → F32.isFinite l.ph = true → F32.sub l.ph (l.cur.period isr) = l.ph →
    let sum := fun k => (fun s => F32.add s l.cur.value)^[k] l.sum
    ((∀ k < room, F32.isFinite (sum (k + 1)) = true) → directLoop Config.core isr room l = .error .countOverflow) ∧
    ((∃ k < room, F32.isFinite (sum (k + 1)) = false) → directLoop Config.core isr room l = .error .numeric) ∧
    (moderate l.sum = true → moderate l.cur.value = true →
      directLoop Config.core isr room l = .error .countOverflow)

/-- R172: the direct output from the update's n and s: the average for n > 1, else the interpolation at
t = PHASE / period(CUR), n = 1 pushing value(CUR). -/
def Obligations.DirectOutputFormula : Prop :=
  ∀ (c : Config) (isr o s : F32) (g g' t : Dsmp) (n : Nat), c.num = NumFmt.binary32 → dsmpUpdate c isr g = .ok (g', n, s) →
    dsmpGet c isr g = .ok (t, o) →
    (1 < n → let avg := F32.div s (F32.ofNat n)
      o = F32.mul avg g'.volume ∧ t = { g' with hPrev := g'.hCur, hCur := avg, out := o }) ∧
    (n = 1 → ∃ y, interp c g'.hCur g'.cur.value (F32.div g'.phase (g'.cur.period isr)) = .ok y ∧
      o = F32.mul y g'.volume ∧ t = { g' with hPrev := g'.hCur, hCur := g'.cur.value, out := o }) ∧
    (n = 0 → ∃ y, interp c g'.hPrev g'.hCur (F32.div g'.phase (g'.cur.period isr)) = .ok y ∧
      o = F32.mul y g'.volume ∧ t = { g' with out := o })

/-- R184: after CLEAR, whatever commands follow but ADDSAMPLE, every GET smp and the SMP term of every MIX is +0.0; and
whatever follows but ADDDIRECT, every GET dsmp and the DSMP term of every MIX. -/
def Obligations.StarvationAfterClearIsSilence : Prop :=
  ∀ s t u w : State, s.Inv → exec .clear s = .next t → w.faultValid = false →
    (t.Reaches (fun i => ∀ x, i ≠ .addsample x) u →
      (exec (.get .smp) u = .next w → w.results = u.results ++ [0x00000000#32]) ∧
      (exec .mix u = .next w → w.smp.acc.out = 0x00000000#32)) ∧
    (t.Reaches (fun i => ∀ p x, i ≠ .adddirect p x) u →
      (exec (.get .dsmp) u = .next w → w.results = u.results ++ [0x00000000#32]) ∧
      (exec .mix u = .next w → w.dsmp.out = 0x00000000#32))

/-! ## Filters and mixer (43_filters.md, 44_mixer.md) -/

/-- R203, R204: the recurrences, with every intermediate finite. -/
def Obligations.FilterRecurrences : Prop :=
  (∀ (f t : HighPass) (x y : F32), applyHighPass Config.core f x = .ok (t, y) →
    ∃ k, f.alpha = some k ∧ y = F32.add (F32.mul k f.yPrev) (F32.mul k (F32.sub x f.xPrev)) ∧
      t = { f with xPrev := x, yPrev := y }) ∧
  (∀ (f t : LowPass) (x y : F32), applyLowPass Config.core f x = .ok (t, y) →
    ∃ k, f.alpha = some k ∧ y = F32.add f.yPrev (F32.mul k (F32.sub x f.yPrev)) ∧ t = { f with yPrev := y })

/-- R234: the clamp, with strict comparisons against the F32 nearest to 0.999 on either side. -/
def Obligations.ClampLimits : Prop :=
  ∀ m : F32,
    (F32.gt m 0x3F7FBE77#32 = true → clamp Config.core m = 0x3F7FBE77#32) ∧
    (F32.lt m 0xBF7FBE77#32 = true → clamp Config.core m = 0xBF7FBE77#32) ∧
    (F32.gt m 0x3F7FBE77#32 = false → F32.lt m 0xBF7FBE77#32 = false → clamp Config.core m = m)

/-- R238: every MIX result lies between CLAMP_LO and CLAMP_HI. -/
def Obligations.MixResultWithinClamp : Prop :=
  ∀ s t : State, s.faultValid = false → exec .mix s = .next t → t.faultValid = false →
    ∃ r, t.results = s.results ++ [r] ∧ F32.le 0xBF7FBE77#32 r = true ∧ F32.le r 0x3F7FBE77#32 = true

/-- R235, R205: INIT with an accepted rate always succeeds, sets what the rule lists and keeps the rest; otherwise it
faults BAD_SAMPLE_RATE (cause 3). -/
def Obligations.InitResetsForSampleRateOrFaults : Prop :=
  ∀ (s : State) (sr : F32), s.faultValid = false →
    (F32.gt sr fZero = true → F32.isFinite sr = true → F32.isInf (F32.div fOne sr) = false →
      let isr := F32.div fOne sr
      let rc := fun fc => F32.div fOne (F32.mul (F32.mul fTwo piF32) fc)
      let reset := fun a : Phasor => { a with phase := fZero, period := some isr, volume := fZero, out := fZero }
      let high := fun fc : F32 =>
        { sr := some sr, fc := some fc, alpha := some (F32.div (rc fc) (F32.add (rc fc) isr)), xPrev := fZero
          yPrev := fZero : HighPass }
      exec (.init sr) s = .next
        { s with
          initDone := true
          invSr := some isr
          p1 := { s.p1 with acc := reset s.p1.acc }
          p2 := { s.p2 with acc := reset s.p2.acc }
          tri := reset s.tri
          noise := { s.noise with acc := reset s.noise.acc, average := fZero }
          smp := { s.smp with acc := reset s.smp.acc, queue := [], hPrev := fZero, hCur := fZero }
          dsmp :=
            { s.dsmp with
              phase := fZero, volume := fZero, out := fZero, queue := [], hPrev := fZero, hCur := fZero, cur := .idle }
          f0 := high 0x42B40000#32
          f1 := high 0x43DC0000#32
          f2 :=
            { sr := some sr, fc := some 0x465AC000#32
              alpha := some (F32.div fOne (F32.add fOne (F32.mul (rc 0x465AC000#32) sr))), yPrev := fZero } }) ∧
    (F32.gt sr fZero = false ∨ F32.isFinite sr = false ∨ F32.isInf (F32.div fOne sr) = true →
      exec (.init sr) s = .next { s with faultValid := true, faultCause := 3#4, faultHdr := 0x10000000#32 })

/-- R201, R202 read in binary32: after INIT every coefficient lies in (0, 1]. -/
def Obligations.FilterCoefficientsInUnitInterval : Prop :=
  ∀ (sr : F32) (s t : State), exec (.init sr) s = .next t → t.faultValid = false →
    ∃ a0 a1 a2, t.f0.alpha = some a0 ∧ t.f1.alpha = some a1 ∧ t.f2.alpha = some a2 ∧
      ∀ a ∈ [a0, a1, a2], F32.gt a fZero = true ∧ F32.le a fOne = true

/-- The corner case of R201 as it is written: ALPHA below 1 for every finite sr > 0. In binary32 it is false: for a very
high rate RC + INV_SR rounds to RC (log 18). -/
def Obligations.HighPassCoefficientBelowOne : Prop :=
  ∀ (sr : F32) (s t : State), exec (.init sr) s = .next t → t.faultValid = false →
    ∃ a, t.f0.alpha = some a ∧ F32.lt a fOne = true

/-- R233: MIX on six gets that succeed: the weighted sum in channel order over 5.5, F0, F1, F2, the clamp; one result. -/
def Obligations.MixIsTheWeightedFilteredSum : Prop :=
  ∀ (s : State) (isr o0 o1 o2 o3 o4 o5 y0 y1 y2 : F32) (p1 p2 : Pulse) (tri : Phasor) (noise : Noise) (smp : Smp)
    (dsmp : Dsmp) (f0 f1 : HighPass) (f2 : LowPass),
    s.faultValid = false → s.initDone = true → s.invSr = some isr →
    pulseGet Config.core isr s.p1 = .ok (p1, o0) → pulseGet Config.core isr s.p2 = .ok (p2, o1) →
    triGet Config.core isr s.tri = .ok (tri, o2) → noiseGet Config.core isr s.noise = .ok (noise, o3) →
    smpGet Config.core isr s.smp = .ok (smp, o4) → dsmpGet Config.core isr s.dsmp = .ok (dsmp, o5) →
    let half := fun o => F32.mul 0x3F000000#32 o
    let s1 := F32.add (half o0) (half o1)
    let s2 := F32.add s1 (half o2)
    let s3 := F32.add s2 (F32.mul 0x3F800000#32 o3)
    let s4 := F32.add s3 (F32.mul 0x3FC00000#32 o4)
    let s5 := F32.add s4 (F32.mul 0x3FC00000#32 o5)
    let m := F32.div s5 0x40B00000#32
    (∀ x ∈ [half o0, half o1, s1, half o2, s2, F32.mul 0x3F800000#32 o3, s3, F32.mul 0x3FC00000#32 o4, s4,
        F32.mul 0x3FC00000#32 o5, s5, m], F32.isFinite x = true) →
    applyHighPass Config.core s.f0 m = .ok (f0, y0) → applyHighPass Config.core s.f1 y0 = .ok (f1, y1) →
    applyLowPass Config.core s.f2 y1 = .ok (f2, y2) →
    exec .mix s = .next
      { s with
        p1 := p1, p2 := p2, tri := tri, noise := noise, smp := smp, dsmp := dsmp, f0 := f0, f1 := f1, f2 := f2
        results := s.results ++ [clamp Config.core y2] }

/-- R236: GET on a get that succeeds: that generator's registers and one result, nothing else. -/
def Obligations.GetRunsOneGenerator : Prop :=
  ∀ (s : State) (isr : F32), s.faultValid = false → s.initDone = true → s.invSr = some isr →
    (∀ g o, pulseGet Config.core isr s.p1 = .ok (g, o) →
      exec (.get .p1) s = .next { s with p1 := g, results := s.results ++ [o] }) ∧
    (∀ g o, pulseGet Config.core isr s.p2 = .ok (g, o) →
      exec (.get .p2) s = .next { s with p2 := g, results := s.results ++ [o] }) ∧
    (∀ g o, triGet Config.core isr s.tri = .ok (g, o) →
      exec (.get .tri) s = .next { s with tri := g, results := s.results ++ [o] }) ∧
    (∀ g o, noiseGet Config.core isr s.noise = .ok (g, o) →
      exec (.get .noise) s = .next { s with noise := g, results := s.results ++ [o] }) ∧
    (∀ g o, smpGet Config.core isr s.smp = .ok (g, o) →
      exec (.get .smp) s = .next { s with smp := g, results := s.results ++ [o] }) ∧
    (∀ g o, dsmpGet Config.core isr s.dsmp = .ok (g, o) →
      exec (.get .dsmp) s = .next { s with dsmp := g, results := s.results ++ [o] })

/-- R48 for GET and MIX: a tick that does not fault writes no pending register, no flag but what its rule names, no
coefficient, nothing of another generator, and adds one result word. -/
def Obligations.TickFrame : Prop :=
  ∀ (i : Instr) (s t : State), i = .mix ∨ (∃ ch, i = .get ch) → s.faultValid = false → exec i s = .next t →
    t.faultValid = false →
    (∃ r, t.results = s.results ++ [r]) ∧ t.port = s.port ∧ t.initDone = s.initDone ∧ t.invSr = s.invSr ∧
    t.faultCause = s.faultCause ∧ t.faultHdr = s.faultHdr ∧
    (∀ ch, i = .get ch →
      (ch ≠ .p1 → t.p1 = s.p1) ∧ (ch ≠ .p2 → t.p2 = s.p2) ∧ (ch ≠ .tri → t.tri = s.tri) ∧
      (ch ≠ .noise → t.noise = s.noise) ∧ (ch ≠ .smp → t.smp = s.smp) ∧ (ch ≠ .dsmp → t.dsmp = s.dsmp) ∧
      t.f0 = s.f0 ∧ t.f1 = s.f1 ∧ t.f2 = s.f2) ∧
    (∀ a ∈ [(t.p1.acc, s.p1.acc), (t.p2.acc, s.p2.acc), (t.tri, s.tri), (t.noise.acc, s.noise.acc),
        (t.smp.acc, s.smp.acc)], a.1.nextPeriod = a.2.nextPeriod ∧ a.1.nextVolume = a.2.nextVolume) ∧
    t.dsmp.nextVolume = s.dsmp.nextVolume ∧ t.p1.nextDuty = s.p1.nextDuty ∧ t.p2.nextDuty = s.p2.nextDuty ∧
    t.noise.metallic = s.noise.metallic ∧
    (t.f0.sr = s.f0.sr ∧ t.f0.fc = s.f0.fc ∧ t.f0.alpha = s.f0.alpha) ∧
    (t.f1.sr = s.f1.sr ∧ t.f1.fc = s.f1.fc ∧ t.f1.alpha = s.f1.alpha) ∧
    (t.f2.sr = s.f2.sr ∧ t.f2.fc = s.f2.fc ∧ t.f2.alpha = s.f2.alpha)

/-- R22 to R27, R36, R38, R46: only INIT sets INIT_DONE and none clears it; only INIT writes INV_SR or a filter's SR, FC
or ALPHA; only a MIX or GET noise moves the LFSR; only SETMETAL changes METALLIC; the fault registers change once, when
FAULT_VALID is set, and no command clears it. -/
def Obligations.StatusRegistersChangeOnlyByTheirWriters : Prop :=
  ∀ (i : Instr) (s t : State), exec i s = .next t →
    (s.initDone = true → t.initDone = true) ∧
    (t.initDone ≠ s.initDone ∨ t.invSr ≠ s.invSr ∨
      (t.f0.sr, t.f0.fc, t.f0.alpha) ≠ (s.f0.sr, s.f0.fc, s.f0.alpha) ∨
      (t.f1.sr, t.f1.fc, t.f1.alpha) ≠ (s.f1.sr, s.f1.fc, s.f1.alpha) ∨
      (t.f2.sr, t.f2.fc, t.f2.alpha) ≠ (s.f2.sr, s.f2.fc, s.f2.alpha) → ∃ sr, i = .init sr) ∧
    (t.noise.lfsr ≠ s.noise.lfsr → i = .mix ∨ i = .get .noise) ∧
    (t.noise.metallic ≠ s.noise.metallic → ∃ b, i = .setmetal b) ∧
    (s.faultValid = true → t.faultValid = true) ∧
    (t.faultValid ≠ s.faultValid ∨ t.faultCause ≠ s.faultCause ∨ t.faultHdr ≠ s.faultHdr →
      s.faultValid = false ∧ t.faultValid = true)

/-- R302: a GET ticks its generator exactly as a MIX does. -/
def Obligations.GetAndMixTickAlike : Prop :=
  ∀ s t : State, s.faultValid = false → exec .mix s = .next t → t.faultValid = false →
    (∃ u, exec (.get .p1) s = .next u ∧ u.faultValid = false ∧ u.p1 = t.p1) ∧
    (∃ u, exec (.get .p2) s = .next u ∧ u.faultValid = false ∧ u.p2 = t.p2) ∧
    (∃ u, exec (.get .tri) s = .next u ∧ u.faultValid = false ∧ u.tri = t.tri) ∧
    (∃ u, exec (.get .noise) s = .next u ∧ u.faultValid = false ∧ u.noise = t.noise) ∧
    (∃ u, exec (.get .smp) s = .next u ∧ u.faultValid = false ∧ u.smp = t.smp) ∧
    (∃ u, exec (.get .dsmp) s = .next u ∧ u.faultValid = false ∧ u.dsmp = t.dsmp)

/-- R69: repeating SETFREQ, SETVOL, SETDUTY, SETMETAL, CLEAR or INIT with the same operand changes nothing more. -/
def Obligations.SettersClearAndInitAreIdempotent : Prop :=
  ∀ (i : Instr) (s t : State),
    (∃ ch x, i = .setfreq ch x ∨ i = .setvol ch x ∨ i = .setduty ch x) ∨ (∃ b, i = .setmetal b) ∨ i = .clear ∨
      (∃ sr, i = .init sr) →
    exec i s = .next t → exec i t = .next t

/-- GET and MIX complete: from every initialised state that keeps the invariants and whose histories and filter
memories are moderate, a GET of a tickable channel, and a MIX when all six are, runs without a fault and adds one result
word. -/
def Obligations.TicksComplete : Prop :=
  ∀ (s : State) (isr : F32), s.Inv → s.Moderate → s.faultValid = false → s.initDone = true → s.invSr = some isr →
    (∀ ch, s.Tickable isr ch →
      ∃ t r, exec (.get ch) s = .next t ∧ t.faultValid = false ∧ t.results = s.results ++ [r]) ∧
    ((∀ ch, s.Tickable isr ch) →
      ∃ t r, exec .mix s = .next t ∧ t.faultValid = false ∧ t.results = s.results ++ [r])

/-! ## Reset and invariants (R290, R51) -/

/-- R290, the power-on column: every register, the queues, no partial command. An empty result port is the model's own
choice (log 3). -/
def Obligations.PowerOnState : Prop :=
  let s := State.reset
  s.initDone = false ∧ s.invSr = none ∧ s.faultValid = false ∧ s.faultCause = 0#4 ∧ s.faultHdr = 0x00000000#32 ∧
  (∀ a ∈ [s.p1.acc, s.p2.acc, s.tri, s.noise.acc, s.smp.acc],
    a = { phase := 0x00000000#32, period := none, nextPeriod := none, volume := 0x00000000#32, nextVolume := none
          out := 0x00000000#32 }) ∧
  s.p1.duty = none ∧ s.p1.nextDuty = none ∧ s.p2.duty = none ∧ s.p2.nextDuty = none ∧
  s.noise.lfsr = 0x0001#15 ∧ s.noise.metallic = false ∧ s.noise.average = 0x00000000#32 ∧
  s.smp.queue = [] ∧ s.smp.hPrev = 0x00000000#32 ∧ s.smp.hCur = 0x00000000#32 ∧
  s.dsmp = { phase := 0x00000000#32, volume := 0x00000000#32, nextVolume := none, out := 0x00000000#32, queue := []
             hPrev := 0x00000000#32, hCur := 0x00000000#32, cur := .idle } ∧
  (∀ f ∈ [s.f0, s.f1],
    f = { sr := none, fc := none, alpha := none, xPrev := 0x00000000#32, yPrev := 0x00000000#32 }) ∧
  s.f2 = { sr := none, fc := none, alpha := none, yPrev := 0x00000000#32 } ∧
  s.port = [] ∧ s.results = []

/-- The power-on state keeps the invariants. -/
def Obligations.InvHoldsAtReset : Prop := State.reset.Inv

/-- R51 and what it needs: every step from a state that keeps the invariants ends in one that does. -/
def Obligations.InvKeptByEveryStep : Prop := ∀ s t : State, s.Inv → step s = .next t → t.Inv

/-! ## Numbers (R9, R12, R49) -/

/-- R12: `+ - * /` on finite operands and `f32(k)` are the exact result rounded once, to nearest even; `fmod` is the exact
truncated remainder. -/
def Obligations.ArithmeticRoundsOnceToNearestEven : Prop :=
  (∀ a b : F32, F32.isFinite a = true → F32.isFinite b = true →
    F32.IsRounding (F32.units a + F32.units b) (F32.add a b) ∧
    F32.IsRounding (F32.units a - F32.units b) (F32.sub a b) ∧
    F32.IsRounding (F32.units a * F32.units b / 2 ^ 149) (F32.mul a b) ∧
    (F32.units b ≠ 0 →
      F32.IsRounding (F32.units a * 2 ^ 149 / F32.units b) (F32.div a b) ∧
      F32.units (F32.fmod a b) = Int.tmod (F32.units a) (F32.units b) ∧ F32.isFinite (F32.fmod a b) = true)) ∧
  ∀ k : Nat, F32.IsRounding (k * 2 ^ 149) (F32.ofNat k)

/-- R9: COS is the cosine rounded to binary32: no finite F32 lies nearer to it, but for 2^-249 (log 6); it stays in
[-1, 1]; COS(0) = 1 and COS(PI) = -1. The reference configuration is valid, its literals the fixed constants (93 U18). -/
def Obligations.CosineRoundsToNearest : Prop :=
  let value := fun x : F32 => (F32.units x : ℝ) / 2 ^ 149
  (∀ x r : F32, F32.isFinite x = true → F32.isFinite r = true →
    |value (Config.core.cos x) - Real.cos (value x)| ≤ |value r - Real.cos (value x)| + 1 / 2 ^ 249) ∧
  Config.core.Valid ∧ Config.core.cos fZero = fOne ∧ Config.core.cos piF32 = 0xBF800000#32

/-- R49: each constant is the F32 nearest to its literal. -/
def Obligations.ConstantsAreNearestToLiterals : Prop :=
  let value := fun x : F32 => (F32.units x : ℝ) / 2 ^ 149
  (∀ row ∈ [ (volThreshold, (0x3C23D70A#32 : F32), (1 / 100 : ℚ)), (clampHi, 0x3F7FBE77#32, 999 / 1000),
        (clampLo, 0xBF7FBE77#32, -999 / 1000), (directGain, 0x40200000#32, 5 / 2), (weightTone, 0x3F000000#32, 1 / 2),
        (weightNoise, 0x3F800000#32, 1), (weightSample, 0x3FC00000#32, 3 / 2), (weightSum, 0x40B00000#32, 11 / 2),
        (cutoff0, 0x42B40000#32, 90), (cutoff1, 0x43DC0000#32, 440), (cutoff2, 0x465AC000#32, 14000) ],
    row.1 = row.2.1 ∧ F32.IsRounding (row.2.2 * 2 ^ 149) row.1) ∧
  piF32 = 0x40490FDB#32 ∧ ∀ r : F32, F32.isFinite r = true → |value piF32 - Real.pi| ≤ |value r - Real.pi|
end

