-- ==== Sys2Proof/Laws/Encoding.lean ====
section
/-! SUPPORT. Reading back the fields of a header the encoder writes (30_encoding.md R80). -/

namespace Sys2Proof

@[simp] theorem headerOp_header (op : Opcode) (ch : BitVec 3) (b : Bool) : headerOp (header op ch b) = op.code := by
  cases op <;> cases b <;> revert ch <;> decide +kernel

@[simp] theorem headerCh_header (op : Opcode) (ch : BitVec 3) (b : Bool) : headerCh (header op ch b) = ch := by
  cases op <;> cases b <;> revert ch <;> decide +kernel

@[simp] theorem headerRsv_header (op : Opcode) (ch : BitVec 3) (b : Bool) : headerRsv (header op ch b) = 0#24 := by
  cases op <;> cases b <;> revert ch <;> decide +kernel

@[simp] theorem headerB_header (op : Opcode) (ch : BitVec 3) (b : Bool) : headerB (header op ch b) = b := by
  cases op <;> cases b <;> revert ch <;> decide +kernel

@[simp] theorem ofCode_code (op : Opcode) : Opcode.ofCode op.code = some op := by cases op <;> rfl

@[simp] theorem ofTag_tag (ch : Channel) : Channel.ofTag ch.tag = some ch := by cases ch <;> rfl

@[simp] theorem operandCount_header (op : Opcode) (ch : BitVec 3) (b : Bool) :
    operandCount (header op ch b) = op.operands := by
  simp [operandCount]

theorem ofCode_eq_some {c : BitVec 4} {op : Opcode} (h : Opcode.ofCode c = some op) : c = op.code := by
  revert op c
  decide +kernel

theorem ofTag_eq_some {t : BitVec 3} {ch : Channel} (h : Channel.ofTag t = some ch) : t = ch.tag := by
  revert ch t
  decide +kernel

end Sys2Proof
end

