-- ==== Sys2Proof/Laws/Float.lean ====
section
/-! SUPPORT. Small lemmas of the binary32 arithmetic: packing, the order of magnitudes, and the two facts about rounding
that bounds rest on, monotone (`roundMag_mono`) and exact on what is representable (`roundMag_magUnits`). -/

namespace Sys2Proof.F32

/-! ## Packing -/

theorem infMag_eq : infMag = 2139095040 := rfl

theorem magBits_lt (x : F32) : magBits x < 2147483648 := Nat.mod_lt _ (by decide)

theorem magBits_pack (neg : Bool) {m : Nat} (h : m < 2147483648) : magBits (pack neg m) = m := by
  cases neg <;> simp only [magBits, pack, BitVec.toNat_ofNat] <;> simp <;> omega

theorem signBit_pack (neg : Bool) {m : Nat} (h : m < 2147483648) : signBit (pack neg m) = neg := by
  cases neg <;> simp [signBit, pack, BitVec.toNat_ofNat] <;> omega

theorem pack_signBit_magBits (x : F32) : pack (signBit x) (magBits x) = x := by
  have hx := x.isLt
  apply BitVec.eq_of_toNat_eq
  by_cases h : 2147483648 ≤ x.toNat
  · have : signBit x = true := by simp [signBit, h]
    rw [this]
    simp only [pack, magBits, BitVec.toNat_ofNat, if_true]
    omega
  · have : signBit x = false := by simp [signBit, h]
    rw [this]
    simp only [pack, magBits, BitVec.toNat_ofNat, Bool.false_eq_true, if_false]
    omega

theorem isFinite_pack (neg : Bool) {m : Nat} (h : m < infMag) : isFinite (pack neg m) = true := by
  have : m < 2147483648 := Nat.lt_trans h (by decide)
  simp only [isFinite, magBits_pack neg this, decide_eq_true_eq]
  exact h

theorem not_isNaN_of_isFinite {x : F32} (h : isFinite x = true) : isNaN x = false := by
  simp only [isFinite, isNaN, decide_eq_true_eq, decide_eq_false_iff_not] at *
  omega

theorem not_isInf_of_isFinite {x : F32} (h : isFinite x = true) : isInf x = false := by
  simp only [isFinite, isInf, decide_eq_true_eq, decide_eq_false_iff_not] at *
  omega

/-! ## Magnitude bits and units -/

/-- Units of a magnitude given by its bits. -/
theorem magUnits_of_magBits {x : F32} {m : Nat} (h : magBits x = m) :
    magUnits x = if m / 8388608 = 0 then m % 8388608 else (8388608 + m % 8388608) * 2 ^ (m / 8388608 - 1) := by
  subst h
  rfl

/-- A larger magnitude has more units. -/
theorem magUnits_lt_of_magBits_lt {x y : F32} (h : magBits x < magBits y) : magUnits x < magUnits y := by
  unfold magUnits
  generalize magBits x = a at *
  generalize magBits y = b at *
  have hq : a / 8388608 ≤ b / 8388608 := Nat.div_le_div_right (Nat.le_of_lt h)
  have ha := Nat.div_add_mod a 8388608
  have hb := Nat.div_add_mod b 8388608
  have ra : a % 8388608 < 8388608 := Nat.mod_lt _ (by decide)
  have rb : b % 8388608 < 8388608 := Nat.mod_lt _ (by decide)
  generalize a % 8388608 = fa at *
  generalize b % 8388608 = fb at *
  generalize a / 8388608 = ea at *
  generalize b / 8388608 = eb at *
  by_cases h0 : ea = 0
  · subst h0
    by_cases h1 : eb = 0
    · simp [h1]; omega
    · simp only [h1, if_true, if_false]
      have : 1 ≤ 2 ^ (eb - 1) := Nat.one_le_two_pow
      nlinarith
  · have h1 : eb ≠ 0 := by omega
    simp only [h0, h1, if_false]
    rcases Nat.lt_or_ge ea eb with he | he
    · have hp : 2 ^ (eb - 1) = 2 ^ (ea - 1) * 2 ^ (eb - ea) := by
        rw [← Nat.pow_add]; congr 1; omega
      have h2 : 2 ≤ 2 ^ (eb - ea) := by
        calc 2 = 2 ^ 1 := rfl
          _ ≤ 2 ^ (eb - ea) := Nat.pow_le_pow_right (by decide) (by omega)
      have hpos : 0 < 2 ^ (ea - 1) := Nat.two_pow_pos _
      rw [hp]
      calc (8388608 + fa) * 2 ^ (ea - 1) < 16777216 * 2 ^ (ea - 1) := by nlinarith
        _ ≤ (8388608 + fb) * (2 ^ (ea - 1) * 2 ^ (eb - ea)) := by
            have : 16777216 ≤ (8388608 + fb) * 2 ^ (eb - ea) := by nlinarith
            nlinarith
    · have : ea = eb := by omega
      subst this
      have hpos : 0 < 2 ^ (ea - 1) := Nat.two_pow_pos _
      have : fa < fb := by omega
      nlinarith

theorem magUnits_le_iff {x y : F32} : magUnits x ≤ magUnits y ↔ magBits x ≤ magBits y := by
  constructor
  · intro h
    by_contra hn
    exact absurd (magUnits_lt_of_magBits_lt (Nat.lt_of_not_le hn)) (by omega)
  · intro h
    rcases Nat.lt_or_ge (magBits x) (magBits y) with hl | hl
    · exact Nat.le_of_lt (magUnits_lt_of_magBits_lt hl)
    · have heq : magBits x = magBits y := by omega
      rw [magUnits_of_magBits heq, magUnits_of_magBits (x := y) rfl]

theorem magUnits_eq_zero_iff {x : F32} : magUnits x = 0 ↔ magBits x = 0 := by
  have h0 : magUnits (0#32) = 0 := by decide
  have hb : magBits (0#32) = 0 := by decide
  have h := magUnits_le_iff (x := x) (y := 0#32)
  rw [h0, hb] at h
  omega

theorem units_eq_zero_iff {x : F32} : units x = 0 ↔ magBits x = 0 := by
  unfold units
  split <;> simp [magUnits_eq_zero_iff]

theorem units_nonneg_iff {x : F32} : 0 ≤ units x ↔ signBit x = false ∨ magBits x = 0 := by
  rw [← magUnits_eq_zero_iff]
  unfold units
  cases signBit x <;> simp

/-! ## Rounding -/

theorem roundMag_le_infMag (num den : Nat) : roundMag num den ≤ infMag := Nat.min_le_right _ _

theorem roundMag_lt (num den : Nat) : roundMag num den < 2147483648 :=
  Nat.lt_of_le_of_lt (roundMag_le_infMag num den) (by decide)

/-- `roundQuotient` is within half of the quotient, and an exact half goes to the even side. -/
theorem roundQuotient_bounds (num : Nat) {den : Nat} (k : Nat) (hd : 0 < den) :
    2 * num ≤ den * 2 ^ k * (2 * roundQuotient num den k + 1) ∧
    den * 2 ^ k * (2 * roundQuotient num den k) ≤ 2 * num + den * 2 ^ k ∧
    (2 * num = den * 2 ^ k * (2 * roundQuotient num den k + 1) → roundQuotient num den k % 2 = 0) ∧
    (den * 2 ^ k * (2 * roundQuotient num den k) = 2 * num + den * 2 ^ k → roundQuotient num den k % 2 = 0) := by
  have hdp : 0 < den * 2 ^ k := Nat.mul_pos hd (Nat.two_pow_pos k)
  unfold roundQuotient
  generalize den * 2 ^ k = d at *
  have hdm := Nat.div_add_mod num d
  have hr := Nat.mod_lt num hdp
  simp only
  generalize num / d = m at *
  generalize num % d = r at *
  have h4 : d * (2 * m) = 2 * (d * m) := by ring
  split
  · have h1 : d * (2 * (m + 1) + 1) = 2 * (d * m) + 3 * d := by ring
    have h2 : d * (2 * (m + 1)) = 2 * (d * m) + 2 * d := by ring
    rw [h1, h2]
    refine ⟨by omega, by omega, fun h => ?_, fun h => ?_⟩ <;> omega
  · split
    · rcases Nat.mod_two_eq_zero_or_one m with h0 | h0
      · rw [h0]; simp only [Nat.add_zero]
        have h1 : d * (2 * m + 1) = 2 * (d * m) + d := by ring
        rw [h1, h4]
        refine ⟨by omega, by omega, fun _ => h0, fun h => ?_⟩; omega
      · rw [h0]
        have h1 : d * (2 * (m + 1) + 1) = 2 * (d * m) + 3 * d := by ring
        have h2 : d * (2 * (m + 1)) = 2 * (d * m) + 2 * d := by ring
        rw [h1, h2]
        refine ⟨by omega, by omega, fun h => ?_, fun _ => by omega⟩; omega
    · have h1 : d * (2 * m + 1) = 2 * (d * m) + d := by ring
      rw [h1, h4]
      refine ⟨by omega, by omega, fun h => ?_, fun h => ?_⟩ <;> omega

/-- For one shift, a larger quotient rounds no lower. -/
theorem roundQuotient_mono {n₁ d₁ n₂ d₂ : Nat} (k : Nat) (h₁ : 0 < d₁) (h₂ : 0 < d₂) (h : n₁ * d₂ ≤ n₂ * d₁) :
    roundQuotient n₁ d₁ k ≤ roundQuotient n₂ d₂ k := by
  obtain ⟨-, lo, -, loTie⟩ := roundQuotient_bounds n₁ k h₁
  obtain ⟨hi, -, hiTie, -⟩ := roundQuotient_bounds n₂ k h₂
  generalize roundQuotient n₁ d₁ k = a at *
  generalize roundQuotient n₂ d₂ k = b at *
  have hp : 0 < 2 ^ k := Nat.two_pow_pos k
  generalize 2 ^ k = p at *
  by_contra hlt
  obtain ⟨c, rfl⟩ : ∃ c, a = b + 1 + c := ⟨a - (b + 1), by omega⟩
  have e1 : (d₁ * p * (2 * (b + 1 + c))) * d₂ ≤ (2 * n₁ + d₁ * p) * d₂ := Nat.mul_le_mul_right _ lo
  have e2 : (2 * n₂) * d₁ ≤ (d₂ * p * (2 * b + 1)) * d₁ := Nat.mul_le_mul_right _ hi
  have hpos : 0 < d₁ * d₂ * p := Nat.mul_pos (Nat.mul_pos h₁ h₂) hp
  have key : d₁ * d₂ * p * (2 * c) ≤ 0 := by nlinarith
  have hc : c = 0 := by
    rcases Nat.eq_zero_of_le_zero key |> Nat.mul_eq_zero.mp with h0 | h0 <;> omega
  subst hc
  have t1 : d₁ * p * (2 * (b + 1 + 0)) = 2 * n₁ + d₁ * p := by
    refine Nat.le_antisymm lo (Nat.le_of_mul_le_mul_right (c := d₂) ?_ h₂)
    nlinarith
  have t2 : 2 * n₂ = d₂ * p * (2 * b + 1) := by
    refine Nat.le_antisymm hi (Nat.le_of_mul_le_mul_right (c := d₁) ?_ h₁)
    nlinarith
  have := loTie t1
  have := hiTie t2
  omega

/-- A significand after rounding has at most 24 bits, the carry excepted; with a positive shift it has 24. -/
theorem roundQuotient_range (num : Nat) {den : Nat} (hd : 0 < den) :
    roundQuotient num den (roundShift num den) ≤ 16777216 ∧
    (0 < roundShift num den → 8388608 ≤ roundQuotient num den (roundShift num den)) := by
  have hb := roundQuotient_bounds num (roundShift num den) hd
  have hdm := Nat.div_add_mod num den
  have hr := Nat.mod_lt num hd
  generalize hk : roundShift num den = k at *
  unfold roundShift at hk
  have hlt : num / den < 2 ^ (k + 24) := by
    rcases Nat.eq_zero_or_pos (num / den) with h0 | h0
    · rw [h0]; exact Nat.two_pow_pos _
    · refine Nat.lt_of_lt_of_le (Nat.lt_log2_self) (Nat.pow_le_pow_right (by decide) (by omega))
  obtain ⟨hi, lo, -, -⟩ := hb
  have hp : 0 < 2 ^ k := Nat.two_pow_pos k
  have h24 : 2 ^ (k + 24) = 2 ^ k * 16777216 := by rw [Nat.pow_add]
  have hnum : num < den * (2 ^ k * 16777216) := by
    rw [← h24]
    calc num < den * (num / den + 1) := by rw [Nat.mul_add]; omega
      _ ≤ den * 2 ^ (k + 24) := Nat.mul_le_mul_left _ hlt
  constructor
  · by_contra hgt
    have : den * 2 ^ k * (2 * 16777217) ≤ den * 2 ^ k * (2 * roundQuotient num den k) :=
      Nat.mul_le_mul_left _ (by omega)
    have hdp : 0 < den * 2 ^ k := Nat.mul_pos hd hp
    nlinarith
  · intro hkpos
    have hne : num / den ≠ 0 := by
      intro h0; rw [h0] at hk; simp at hk; omega
    have hge : 2 ^ (k + 23) ≤ num / den := by
      have := Nat.log2_self_le hne
      refine Nat.le_trans (Nat.pow_le_pow_right (by decide) ?_) this
      omega
    have h23 : 2 ^ (k + 23) = 2 ^ k * 8388608 := by rw [Nat.pow_add]
    have hnum' : den * (2 ^ k * 8388608) ≤ num := by
      rw [← h23]
      calc den * 2 ^ (k + 23) ≤ den * (num / den) := Nat.mul_le_mul_left _ hge
        _ ≤ num := Nat.mul_div_le num den
    by_contra hlt'
    have : den * 2 ^ k * (2 * roundQuotient num den k + 1) ≤ den * 2 ^ k * 16777215 :=
      Nat.mul_le_mul_left _ (by omega)
    have hdp : 0 < den * 2 ^ k := Nat.mul_pos hd hp
    nlinarith

/-- Rounding is monotone in the quotient. -/
theorem roundMag_mono {n₁ d₁ n₂ d₂ : Nat} (h₁ : 0 < d₁) (h₂ : 0 < d₂) (h : n₁ * d₂ ≤ n₂ * d₁) :
    roundMag n₁ d₁ ≤ roundMag n₂ d₂ := by
  have hq : n₁ / d₁ ≤ n₂ / d₂ := by
    rw [Nat.le_div_iff_mul_le h₂]
    refine Nat.le_of_mul_le_mul_right (c := d₁) ?_ h₁
    calc n₁ / d₁ * d₂ * d₁ = n₁ / d₁ * d₁ * d₂ := by ring
      _ ≤ n₁ * d₂ := Nat.mul_le_mul_right _ (Nat.div_mul_le_self n₁ d₁)
      _ ≤ n₂ * d₁ := h
  have hk : roundShift n₁ d₁ ≤ roundShift n₂ d₂ := by
    unfold roundShift
    have : (n₁ / d₁).log2 ≤ (n₂ / d₂).log2 := by
      rcases Nat.eq_zero_or_pos (n₁ / d₁) with h0 | h0
      · rw [h0]; simp
      · rw [Nat.le_log2 (by omega)]
        exact Nat.le_trans (Nat.log2_self_le (by omega)) hq
    omega
  unfold roundMag
  refine min_le_min_right _ ?_
  rcases Nat.lt_or_ge (roundShift n₁ d₁) (roundShift n₂ d₂) with hlt | hge
  · have a := (roundQuotient_range n₁ h₁).1
    have b := (roundQuotient_range n₂ h₂).2 (by omega)
    omega
  · have : roundShift n₁ d₁ = roundShift n₂ d₂ := by omega
    rw [this]
    have := roundQuotient_mono (roundShift n₂ d₂) h₁ h₂ h
    omega

/-- A finite value's own units round to itself. -/
theorem roundMag_magUnits {x : F32} (hx : isFinite x = true) : roundMag (magUnits x) 1 = magBits x := by
  have hfin : magBits x < infMag := of_decide_eq_true hx
  rw [infMag_eq] at hfin
  unfold magUnits roundMag roundShift roundQuotient
  generalize magBits x = m at *
  have hm := Nat.div_add_mod m 8388608
  have hr : m % 8388608 < 8388608 := Nat.mod_lt _ (by decide)
  generalize m % 8388608 = f at *
  generalize m / 8388608 = e at *
  simp only [Nat.div_one, Nat.one_mul, infMag_eq]
  by_cases h0 : e = 0
  · subst h0
    have hl : Nat.log2 f - 23 = 0 := by
      have : Nat.log2 f ≤ 23 := by
        rcases Nat.eq_zero_or_pos f with hz | hz
        · rw [hz]; simp
        · have : Nat.log2 f < 23 := (Nat.log2_lt (by omega)).mpr (by omega)
          omega
      omega
    simp only [if_true, hl, Nat.pow_zero, Nat.div_one, Nat.mod_one]
    simp; omega
  · simp only [h0, if_false]
    have hpos : 0 < 2 ^ (e - 1) := Nat.two_pow_pos _
    have hl : Nat.log2 ((8388608 + f) * 2 ^ (e - 1)) - 23 = e - 1 := by
      have hne : (8388608 + f) * 2 ^ (e - 1) ≠ 0 := by positivity
      have hb1 : (8388608 + f) * 2 ^ (e - 1) < 2 ^ (e - 1 + 24) := by
        rw [Nat.add_comm (e - 1) 24, Nat.pow_add]
        exact Nat.mul_lt_mul_of_pos_right (show 8388608 + f < 2 ^ 24 by omega) hpos
      have hb2 : 2 ^ (e - 1 + 23) ≤ (8388608 + f) * 2 ^ (e - 1) := by
        rw [Nat.add_comm (e - 1) 23, Nat.pow_add]
        exact Nat.mul_le_mul_right _ (show 2 ^ 23 ≤ 8388608 + f by omega)
      have l1 := (Nat.log2_lt hne).mpr hb1
      have l2 := (Nat.le_log2 hne).mpr hb2
      omega
    rw [hl, Nat.mul_div_cancel _ hpos, Nat.mul_mod_left]
    have : ¬ (2 ^ (e - 1) < 2 * 0) := by omega
    have h2 : ¬ (2 * 0 = 2 ^ (e - 1)) := by omega
    simp only [this, h2, if_false]
    omega

/-- A quotient of at most `x` rounds to at most `x`. -/
theorem roundMag_le_magBits {num den : Nat} {x : F32} (hx : isFinite x = true) (hd : 0 < den)
    (h : num ≤ magUnits x * den) : roundMag num den ≤ magBits x := by
  rw [← roundMag_magUnits hx]
  exact roundMag_mono hd (by decide) (by omega)

/-- A quotient of at least `x` rounds to at least `x`. -/
theorem magBits_le_roundMag {num den : Nat} {x : F32} (hx : isFinite x = true) (hd : 0 < den)
    (h : magUnits x * den ≤ num) : magBits x ≤ roundMag num den := by
  rw [← roundMag_magUnits hx]
  exact roundMag_mono (by decide) hd (by omega)

/-! ## Negation and comparison -/

theorem magBits_neg (x : F32) : magBits (neg x) = magBits x := by
  have : (neg x).toNat % 2 ^ 31 = x.toNat % 2 ^ 31 := by
    rw [neg, BitVec.toNat_xor]
    apply Nat.eq_of_testBit_eq
    intro i
    rw [Nat.testBit_mod_two_pow, Nat.testBit_mod_two_pow, Nat.testBit_xor]
    by_cases hi : i < 31
    · have : (BitVec.toNat 0x80000000#32).testBit i = false := by
        rw [show BitVec.toNat 0x80000000#32 = 2 ^ 31 from rfl, Nat.testBit_two_pow]
        simp; omega
      rw [this, Bool.xor_false]
    · simp [hi]
  exact this

@[simp] theorem isFinite_neg (x : F32) : isFinite (neg x) = isFinite x := by
  simp only [isFinite, magBits_neg]

/-- Adding a value up to 2^100 never leaves the range up to 2^126, however often it is done: next to 2^126 the sum rounds
back. -/
theorem magBits_add_le {s v : F32} (hs : magBits s ≤ 0x7E800000) (hv : magBits v ≤ 0x71800000) :
    magBits (add s v) ≤ 0x7E800000 := by
  have hvf : isFinite v = true := decide_eq_true (lt_of_le_of_lt hv (by decide))
  have hsf : isFinite s = true := decide_eq_true (lt_of_le_of_lt hs (by decide))
  simp only [add, not_isNaN_of_isFinite hvf, not_isNaN_of_isFinite hsf, not_isInf_of_isFinite hvf,
    not_isInf_of_isFinite hsf, Bool.or_self, Bool.false_eq_true, if_false]
  split
  · rw [magBits_pack _ (by decide)]; omega
  · rw [ofUnits, magBits_pack _ (roundMag_lt _ _)]
    have a : magUnits s ≤ magUnits 0x7E800000#32 := magUnits_le_iff.mpr hs
    have b : magUnits v ≤ magUnits 0x71800000#32 := magUnits_le_iff.mpr hv
    have ab : (units s + units v).natAbs ≤ magUnits 0x7E800000#32 + magUnits 0x71800000#32 := by
      unfold units; split <;> split <;> omega
    exact (roundMag_mono (by decide) (by decide) (Nat.mul_le_mul_right _ ab)).trans (by decide +kernel)

theorem lt_irrefl (x : F32) : lt x x = false := by simp [lt]

/-- Where a comparison with a NaN is left out, `<` is the negation of `>=`. -/
theorem not_ge_iff_lt {x y : F32} (hx : isNaN x = false) (hy : isNaN y = false) : ge x y = false ↔ lt x y = true := by
  simp [ge, le, lt, hx, hy]

theorem le_of_lt {x y : F32} (h : lt x y = true) : le x y = true := by
  simp only [lt, le, Bool.and_eq_true, decide_eq_true_eq] at *
  exact ⟨h.1, by omega⟩

end Sys2Proof.F32
end

