-- ==== Sys2Proof/Laws/State.lean ====
section
/-! SUPPORT. What each named update of the state leaves in each field, true by `rfl`, so that no later proof unfolds an
update. -/

namespace Sys2Proof.Machine

/-! ## putResult (R89) -/

@[simp] theorem putResult_initDone (v : F32) (s : State) : (putResult v s).initDone = s.initDone := rfl
@[simp] theorem putResult_invSr (v : F32) (s : State) : (putResult v s).invSr = s.invSr := rfl
@[simp] theorem putResult_p1 (v : F32) (s : State) : (putResult v s).p1 = s.p1 := rfl
@[simp] theorem putResult_p2 (v : F32) (s : State) : (putResult v s).p2 = s.p2 := rfl
@[simp] theorem putResult_tri (v : F32) (s : State) : (putResult v s).tri = s.tri := rfl
@[simp] theorem putResult_noise (v : F32) (s : State) : (putResult v s).noise = s.noise := rfl
@[simp] theorem putResult_smp (v : F32) (s : State) : (putResult v s).smp = s.smp := rfl
@[simp] theorem putResult_dsmp (v : F32) (s : State) : (putResult v s).dsmp = s.dsmp := rfl
@[simp] theorem putResult_f0 (v : F32) (s : State) : (putResult v s).f0 = s.f0 := rfl
@[simp] theorem putResult_f1 (v : F32) (s : State) : (putResult v s).f1 = s.f1 := rfl
@[simp] theorem putResult_f2 (v : F32) (s : State) : (putResult v s).f2 = s.f2 := rfl
@[simp] theorem putResult_faultValid (v : F32) (s : State) : (putResult v s).faultValid = s.faultValid := rfl
@[simp] theorem putResult_faultCause (v : F32) (s : State) : (putResult v s).faultCause = s.faultCause := rfl
@[simp] theorem putResult_faultHdr (v : F32) (s : State) : (putResult v s).faultHdr = s.faultHdr := rfl
@[simp] theorem putResult_port (v : F32) (s : State) : (putResult v s).port = s.port := rfl
@[simp] theorem putResult_results (v : F32) (s : State) : (putResult v s).results = s.results ++ [v] := rfl

/-! ## takeFault (R264) -/

@[simp] theorem takeFault_initDone (c : Cause) (h : Word) (s : State) : (takeFault c h s).initDone = s.initDone := rfl
@[simp] theorem takeFault_invSr (c : Cause) (h : Word) (s : State) : (takeFault c h s).invSr = s.invSr := rfl
@[simp] theorem takeFault_p1 (c : Cause) (h : Word) (s : State) : (takeFault c h s).p1 = s.p1 := rfl
@[simp] theorem takeFault_p2 (c : Cause) (h : Word) (s : State) : (takeFault c h s).p2 = s.p2 := rfl
@[simp] theorem takeFault_tri (c : Cause) (h : Word) (s : State) : (takeFault c h s).tri = s.tri := rfl
@[simp] theorem takeFault_noise (c : Cause) (h : Word) (s : State) : (takeFault c h s).noise = s.noise := rfl
@[simp] theorem takeFault_smp (c : Cause) (h : Word) (s : State) : (takeFault c h s).smp = s.smp := rfl
@[simp] theorem takeFault_dsmp (c : Cause) (h : Word) (s : State) : (takeFault c h s).dsmp = s.dsmp := rfl
@[simp] theorem takeFault_f0 (c : Cause) (h : Word) (s : State) : (takeFault c h s).f0 = s.f0 := rfl
@[simp] theorem takeFault_f1 (c : Cause) (h : Word) (s : State) : (takeFault c h s).f1 = s.f1 := rfl
@[simp] theorem takeFault_f2 (c : Cause) (h : Word) (s : State) : (takeFault c h s).f2 = s.f2 := rfl
@[simp] theorem takeFault_port (c : Cause) (h : Word) (s : State) : (takeFault c h s).port = s.port := rfl
@[simp] theorem takeFault_results (c : Cause) (h : Word) (s : State) : (takeFault c h s).results = s.results := rfl
@[simp] theorem takeFault_faultValid (c : Cause) (h : Word) (s : State) : (takeFault c h s).faultValid = true := rfl
@[simp] theorem takeFault_faultCause (c : Cause) (h : Word) (s : State) : (takeFault c h s).faultCause = c.code := rfl
@[simp] theorem takeFault_faultHdr (c : Cause) (h : Word) (s : State) : (takeFault c h s).faultHdr = h := rfl

/-! ## deliver (R67) -/

@[simp] theorem deliver_initDone (ws : List Word) (s : State) : (s.deliver ws).initDone = s.initDone := rfl
@[simp] theorem deliver_invSr (ws : List Word) (s : State) : (s.deliver ws).invSr = s.invSr := rfl
@[simp] theorem deliver_p1 (ws : List Word) (s : State) : (s.deliver ws).p1 = s.p1 := rfl
@[simp] theorem deliver_p2 (ws : List Word) (s : State) : (s.deliver ws).p2 = s.p2 := rfl
@[simp] theorem deliver_tri (ws : List Word) (s : State) : (s.deliver ws).tri = s.tri := rfl
@[simp] theorem deliver_noise (ws : List Word) (s : State) : (s.deliver ws).noise = s.noise := rfl
@[simp] theorem deliver_smp (ws : List Word) (s : State) : (s.deliver ws).smp = s.smp := rfl
@[simp] theorem deliver_dsmp (ws : List Word) (s : State) : (s.deliver ws).dsmp = s.dsmp := rfl
@[simp] theorem deliver_f0 (ws : List Word) (s : State) : (s.deliver ws).f0 = s.f0 := rfl
@[simp] theorem deliver_f1 (ws : List Word) (s : State) : (s.deliver ws).f1 = s.f1 := rfl
@[simp] theorem deliver_f2 (ws : List Word) (s : State) : (s.deliver ws).f2 = s.f2 := rfl
@[simp] theorem deliver_faultValid (ws : List Word) (s : State) : (s.deliver ws).faultValid = s.faultValid := rfl
@[simp] theorem deliver_faultCause (ws : List Word) (s : State) : (s.deliver ws).faultCause = s.faultCause := rfl
@[simp] theorem deliver_faultHdr (ws : List Word) (s : State) : (s.deliver ws).faultHdr = s.faultHdr := rfl
@[simp] theorem deliver_results (ws : List Word) (s : State) : (s.deliver ws).results = s.results := rfl
@[simp] theorem deliver_port (ws : List Word) (s : State) : (s.deliver ws).port = s.port ++ ws := rfl

/-! ## The setters (R120, R121): the fields no channel of theirs holds -/

@[simp] theorem writeNextPeriod_initDone (ch : Channel) (p : F32) (s : State) : (writeNextPeriod ch p s).initDone = s.initDone := by
  cases ch <;> rfl
@[simp] theorem writeNextPeriod_invSr (ch : Channel) (p : F32) (s : State) : (writeNextPeriod ch p s).invSr = s.invSr := by
  cases ch <;> rfl
@[simp] theorem writeNextPeriod_f0 (ch : Channel) (p : F32) (s : State) : (writeNextPeriod ch p s).f0 = s.f0 := by
  cases ch <;> rfl
@[simp] theorem writeNextPeriod_f1 (ch : Channel) (p : F32) (s : State) : (writeNextPeriod ch p s).f1 = s.f1 := by
  cases ch <;> rfl
@[simp] theorem writeNextPeriod_f2 (ch : Channel) (p : F32) (s : State) : (writeNextPeriod ch p s).f2 = s.f2 := by
  cases ch <;> rfl
@[simp] theorem writeNextPeriod_port (ch : Channel) (p : F32) (s : State) : (writeNextPeriod ch p s).port = s.port := by
  cases ch <;> rfl
@[simp] theorem writeNextPeriod_results (ch : Channel) (p : F32) (s : State) : (writeNextPeriod ch p s).results = s.results := by
  cases ch <;> rfl
@[simp] theorem writeNextPeriod_faultValid (ch : Channel) (p : F32) (s : State) : (writeNextPeriod ch p s).faultValid = s.faultValid := by
  cases ch <;> rfl
@[simp] theorem writeNextPeriod_faultCause (ch : Channel) (p : F32) (s : State) : (writeNextPeriod ch p s).faultCause = s.faultCause := by
  cases ch <;> rfl
@[simp] theorem writeNextPeriod_faultHdr (ch : Channel) (p : F32) (s : State) : (writeNextPeriod ch p s).faultHdr = s.faultHdr := by
  cases ch <;> rfl
@[simp] theorem writeNextVolume_initDone (ch : Channel) (v : F32) (s : State) : (writeNextVolume ch v s).initDone = s.initDone := by
  cases ch <;> rfl
@[simp] theorem writeNextVolume_invSr (ch : Channel) (v : F32) (s : State) : (writeNextVolume ch v s).invSr = s.invSr := by
  cases ch <;> rfl
@[simp] theorem writeNextVolume_f0 (ch : Channel) (v : F32) (s : State) : (writeNextVolume ch v s).f0 = s.f0 := by
  cases ch <;> rfl
@[simp] theorem writeNextVolume_f1 (ch : Channel) (v : F32) (s : State) : (writeNextVolume ch v s).f1 = s.f1 := by
  cases ch <;> rfl
@[simp] theorem writeNextVolume_f2 (ch : Channel) (v : F32) (s : State) : (writeNextVolume ch v s).f2 = s.f2 := by
  cases ch <;> rfl
@[simp] theorem writeNextVolume_port (ch : Channel) (v : F32) (s : State) : (writeNextVolume ch v s).port = s.port := by
  cases ch <;> rfl
@[simp] theorem writeNextVolume_results (ch : Channel) (v : F32) (s : State) : (writeNextVolume ch v s).results = s.results := by
  cases ch <;> rfl
@[simp] theorem writeNextVolume_faultValid (ch : Channel) (v : F32) (s : State) : (writeNextVolume ch v s).faultValid = s.faultValid := by
  cases ch <;> rfl
@[simp] theorem writeNextVolume_faultCause (ch : Channel) (v : F32) (s : State) : (writeNextVolume ch v s).faultCause = s.faultCause := by
  cases ch <;> rfl
@[simp] theorem writeNextVolume_faultHdr (ch : Channel) (v : F32) (s : State) : (writeNextVolume ch v s).faultHdr = s.faultHdr := by
  cases ch <;> rfl
@[simp] theorem writeNextPeriod_dsmp (ch : Channel) (p : F32) (s : State) : (writeNextPeriod ch p s).dsmp = s.dsmp := by
  cases ch <;> rfl

/-! ## CLEAR and INIT on one generator (R180, R235) -/

@[simp] theorem clearDsmp_volume (g : Dsmp) : (clearDsmp g).volume = g.volume := rfl
@[simp] theorem clearDsmp_nextVolume (g : Dsmp) : (clearDsmp g).nextVolume = g.nextVolume := rfl
@[simp] theorem initDsmp_nextVolume (g : Dsmp) : (initDsmp g).nextVolume = g.nextVolume := rfl
@[simp] theorem clearSmp_period (g : Smp) : (clearSmp g).acc.period = g.acc.period := rfl
@[simp] theorem clearSmp_nextPeriod (g : Smp) : (clearSmp g).acc.nextPeriod = g.acc.nextPeriod := rfl
@[simp] theorem clearSmp_volume (g : Smp) : (clearSmp g).acc.volume = g.acc.volume := rfl
@[simp] theorem clearSmp_nextVolume (g : Smp) : (clearSmp g).acc.nextVolume = g.acc.nextVolume := rfl
@[simp] theorem initPhasor_nextPeriod (isr : F32) (a : Phasor) : (initPhasor isr a).nextPeriod = a.nextPeriod := rfl
@[simp] theorem initPhasor_nextVolume (isr : F32) (a : Phasor) : (initPhasor isr a).nextVolume = a.nextVolume := rfl
@[simp] theorem initPhasor_phase (isr : F32) (a : Phasor) : (initPhasor isr a).phase = fZero := rfl
@[simp] theorem initPhasor_period (isr : F32) (a : Phasor) : (initPhasor isr a).period = some isr := rfl
@[simp] theorem initPhasor_volume (isr : F32) (a : Phasor) : (initPhasor isr a).volume = fZero := rfl
@[simp] theorem initPulse_duty (isr : F32) (g : Pulse) : (initPulse isr g).duty = g.duty := rfl
@[simp] theorem initPulse_nextDuty (isr : F32) (g : Pulse) : (initPulse isr g).nextDuty = g.nextDuty := rfl
@[simp] theorem initNoise_lfsr (isr : F32) (g : Noise) : (initNoise isr g).lfsr = g.lfsr := rfl
@[simp] theorem initNoise_metallic (isr : F32) (g : Noise) : (initNoise isr g).metallic = g.metallic := rfl

end Sys2Proof.Machine
end

