-- ==== Sys2Proof/Laws/Ops.lean ====
section
/-! SUPPORT. One lemma per shared operation: what it can answer. A body that answers `.ok` is taken apart with
`bind_ok` and these, with no unfolding. -/

namespace Sys2Proof.Machine

/-- A sequence that succeeds succeeds at each part. -/
theorem bind_ok {ε α β : Type} {x : Except ε α} {f : α → Except ε β} {b : β} :
    (x >>= f) = .ok b ↔ ∃ a, x = .ok a ∧ f a = .ok b := by
  cases x with
  | error e => exact ⟨fun h => (nomatch h), fun ⟨_, h, _⟩ => (nomatch h)⟩
  | ok a => exact ⟨fun h => ⟨a, rfl, h⟩, fun ⟨_, h, h'⟩ => by cases h; exact h'⟩

/-! ## Checked arithmetic (R265) -/

theorem numeric_ok {c : Config} {r x : F32} : numeric c r = .ok x ↔ c.num.isFinite r = true ∧ x = r := by
  unfold numeric
  split <;> rename_i h
  · exact ⟨fun e => by cases e; exact ⟨h, rfl⟩, fun e => by rw [e.2]⟩
  · exact ⟨fun e => (nomatch e), fun e => absurd e.1 h⟩

theorem numeric_of_isFinite {c : Config} {r : F32} (h : c.num.isFinite r = true) : numeric c r = .ok r := by
  simp [numeric, h]

/-- What every checked operation answers is finite (R51 item 5). -/
theorem numeric_isFinite {c : Config} {r x : F32} (h : numeric c r = .ok x) : c.num.isFinite x = true := by
  obtain ⟨h, rfl⟩ := numeric_ok.mp h
  exact h

theorem fadd_ok {c : Config} {a b x : F32} :
    fadd c a b = .ok x ↔ c.num.isFinite (c.num.add a b) = true ∧ x = c.num.add a b := numeric_ok
theorem fsub_ok {c : Config} {a b x : F32} :
    fsub c a b = .ok x ↔ c.num.isFinite (c.num.sub a b) = true ∧ x = c.num.sub a b := numeric_ok
theorem fmul_ok {c : Config} {a b x : F32} :
    fmul c a b = .ok x ↔ c.num.isFinite (c.num.mul a b) = true ∧ x = c.num.mul a b := numeric_ok
theorem fdiv_ok {c : Config} {a b x : F32} :
    fdiv c a b = .ok x ↔ c.num.isFinite (c.num.div a b) = true ∧ x = c.num.div a b := numeric_ok
theorem fneg_ok {c : Config} {a x : F32} :
    fneg c a = .ok x ↔ c.num.isFinite (c.num.neg a) = true ∧ x = c.num.neg a := numeric_ok
theorem ffmod_ok {c : Config} {a b x : F32} :
    ffmod c a b = .ok x ↔ c.num.isFinite (c.num.fmod a b) = true ∧ x = c.num.fmod a b := numeric_ok
theorem ffromNat_ok {c : Config} {k : Nat} {x : F32} :
    ffromNat c k = .ok x ↔ c.num.isFinite (c.num.ofNat k) = true ∧ x = c.num.ofNat k := numeric_ok
theorem fcos_ok {c : Config} {a x : F32} : fcos c a = .ok x ↔ c.num.isFinite (c.cos a) = true ∧ x = c.cos a := numeric_ok

theorem floorExact_ok {c : Config} {a b : F32} {n : Nat} : floorExact c a b = .ok n ↔ c.num.floorQuot a b = some n := by
  unfold floorExact
  cases c.num.floorQuot a b <;> simp

theorem floorQuot_eq_some {a b : F32} {n : Nat} :
    F32.floorQuot a b = some n ↔ 0 < F32.units b ∧ 0 ≤ F32.units a ∧ n = F32.magUnits a / F32.magUnits b := by
  unfold F32.floorQuot
  split <;> rename_i h
  · exact ⟨fun h' => (nomatch h'), fun h' => by omega⟩
  · constructor
    · intro h'
      cases h'
      omega
    · rintro ⟨-, -, rfl⟩; rfl

/-! ## This core's number format (R9) -/

@[simp] theorem core_num : Config.core.num = NumFmt.binary32 := rfl
@[simp] theorem core_cos : Config.core.cos = cosF32 := rfl
@[simp] theorem binary32_add : NumFmt.binary32.add = F32.add := rfl
@[simp] theorem binary32_sub : NumFmt.binary32.sub = F32.sub := rfl
@[simp] theorem binary32_mul : NumFmt.binary32.mul = F32.mul := rfl
@[simp] theorem binary32_div : NumFmt.binary32.div = F32.div := rfl
@[simp] theorem binary32_fmod : NumFmt.binary32.fmod = F32.fmod := rfl
@[simp] theorem binary32_neg : NumFmt.binary32.neg = F32.neg := rfl
@[simp] theorem binary32_ofNat : NumFmt.binary32.ofNat = F32.ofNat := rfl
@[simp] theorem binary32_floorQuot : NumFmt.binary32.floorQuot = F32.floorQuot := rfl
@[simp] theorem binary32_lt : NumFmt.binary32.lt = F32.lt := rfl
@[simp] theorem binary32_le : NumFmt.binary32.le = F32.le := rfl
@[simp] theorem binary32_isFinite : NumFmt.binary32.isFinite = F32.isFinite := rfl
@[simp] theorem binary32_isInf : NumFmt.binary32.isInf = F32.isInf := rfl
/-- Each literal rounds to the pattern R49 and R52 give. -/
theorem binary32_lit (l : Literal) : NumFmt.binary32.lit l = binary32Literal l := by cases l <;> decide +kernel

@[simp] theorem binary32_half : NumFmt.binary32.lit .half = fHalf := binary32_lit _
@[simp] theorem binary32_one : NumFmt.binary32.lit .one = fOne := binary32_lit _
@[simp] theorem binary32_two : NumFmt.binary32.lit .two = fTwo := binary32_lit _
@[simp] theorem binary32_three : NumFmt.binary32.lit .three = fThree := binary32_lit _
@[simp] theorem binary32_four : NumFmt.binary32.lit .four = fFour := binary32_lit _
@[simp] theorem binary32_volThreshold : NumFmt.binary32.lit .volThreshold = volThreshold := binary32_lit _
@[simp] theorem binary32_clampHi : NumFmt.binary32.lit .clampHi = clampHi := binary32_lit _
@[simp] theorem binary32_clampLo : NumFmt.binary32.lit .clampLo = clampLo := binary32_lit _
@[simp] theorem binary32_directGain : NumFmt.binary32.lit .directGain = directGain := binary32_lit _
@[simp] theorem binary32_weightTone : NumFmt.binary32.lit .weightTone = weightTone := binary32_lit _
@[simp] theorem binary32_weightNoise : NumFmt.binary32.lit .weightNoise = weightNoise := binary32_lit _
@[simp] theorem binary32_weightSample : NumFmt.binary32.lit .weightSample = weightSample := binary32_lit _
@[simp] theorem binary32_weightSum : NumFmt.binary32.lit .weightSum = weightSum := binary32_lit _
@[simp] theorem binary32_cutoff0 : NumFmt.binary32.lit .cutoff0 = cutoff0 := binary32_lit _
@[simp] theorem binary32_cutoff1 : NumFmt.binary32.lit .cutoff1 = cutoff1 := binary32_lit _
@[simp] theorem binary32_cutoff2 : NumFmt.binary32.lit .cutoff2 = cutoff2 := binary32_lit _
@[simp] theorem binary32_pi : NumFmt.binary32.lit .pi = piF32 := binary32_lit _

/-- The operand checks of R263 at binary32. -/
theorem positiveFinite_core (x : F32) : positiveFinite Config.core x = (F32.gt x fZero && F32.isFinite x) := rfl
theorem inUnit_core (x : F32) : inUnit Config.core x = (F32.ge x fZero && F32.le x fOne) := by
  simp [inUnit, F32.ge]

/-! ## Registers -/

theorem readWritten_ok {r : Reg} {v : F32} : readWritten r = .ok v ↔ r = some v := by
  cases r <;> simp [readWritten]

@[simp] theorem readWritten_some (v : F32) : readWritten (some v) = .ok v := rfl
@[simp] theorem readWritten_none : readWritten none = .error .unwrittenParam := rfl

theorem requireInit_ok {s : State} {isr : F32} : requireInit s = .ok isr ↔ s.initDone = true ∧ s.invSr = some isr := by
  unfold requireInit
  split <;> simp_all [readWritten_ok]

/-! ## Queues (R63 to R65) -/

@[simp] theorem dequeue_nil {α : Type} : dequeue ([] : List α) = (none, []) := rfl
@[simp] theorem dequeue_cons {α : Type} (e : α) (q : List α) : dequeue (e :: q) = (some e, q) := rfl

/-- An enqueue keeps entries that were there, in order, perhaps without the oldest, and puts the new one last. -/
theorem enqueue_ok {α : Type} {c : Config} {q t : List α} {e : α} (h : enqueue c q e = .ok t) :
    t = q ++ [e] ∨ t = q.drop 1 ++ [e] := by
  unfold enqueue at h
  split at h
  · cases h; exact .inl rfl
  · split at h
    · cases h; exact .inr rfl
    · split at h
      · cases h; exact .inl rfl
      · split at h
        · exact nomatch h
        · cases h; exact .inl rfl

/-- With this core's parameters nothing is lost and nothing faults (R65). -/
theorem enqueue_core {α : Type} (q : List α) (e : α) : enqueue Config.core q e = .ok (q ++ [e]) := by
  unfold enqueue
  split <;> rfl

/-! ## Performing a command (R264, R267) -/

theorem perform_faulted {h : Word} {body : State → Except Cause State} {s : State} (hs : s.faultValid = true) :
    perform h body s = .next s := by
  simp [perform, hs]

theorem perform_ok {h : Word} {body : State → Except Cause State} {s t : State} (hs : s.faultValid = false)
    (hb : body s = .ok t) : perform h body s = .next t := by
  simp [perform, hs, hb]

theorem perform_error {h : Word} {body : State → Except Cause State} {s : State} {c : Cause} (hs : s.faultValid = false)
    (hb : body s = .error c) : perform h body s = .next (takeFault c h s) := by
  simp [perform, hs, hb]

/-- Everything `perform` can do. -/
theorem perform_cases {h : Word} {body : State → Except Cause State} {s t : State} (ht : perform h body s = .next t) :
    (s.faultValid = true ∧ t = s) ∨
    (s.faultValid = false ∧ body s = .ok t) ∨
    (s.faultValid = false ∧ ∃ c, body s = .error c ∧ t = takeFault c h s) := by
  unfold perform at ht
  split at ht
  · rename_i hs
    cases ht
    exact .inl ⟨hs, rfl⟩
  · rename_i hs
    have hs : s.faultValid = false := by simpa using hs
    split at ht <;> rename_i x hb <;> cases ht
    · exact .inr (.inl ⟨hs, hb⟩)
    · exact .inr (.inr ⟨hs, _, hb, rfl⟩)

/-! ## Fetch (R67, R82) -/

theorem fetch_nil : fetch [] = .idle := rfl

theorem fetch_of_decode {port rest : List Word} {i : Instr} (h : decode port = .ok (i, rest)) :
    fetch port = .command i rest := by
  simp [fetch, h]

/-- Everything a step that answers a next state can have done. -/
theorem stepBy_cases {run : Instr → State → Host.Outcome State Fault Refusal} {s t : State} (h : stepBy run s = .next t) :
    (∃ i rest, decode s.port = .ok (i, rest) ∧ run i { s with port := rest } = .next t) ∨
    (∃ hd why rest, decode s.port = .error (.illegal hd why rest) ∧
      performIllegal hd { s with port := rest } = .next t) := by
  unfold stepBy fetch at h
  cases hd : decode s.port with
  | ok r => rw [hd] at h; exact .inl ⟨r.1, r.2, rfl, h⟩
  | error e =>
    rw [hd] at h
    cases e with
    | noWords => exact (nomatch h)
    | incomplete => exact (nomatch h)
    | illegal w why rest => exact .inr ⟨w, why, rest, rfl, h⟩

theorem step_cases {s t : State} (h : step s = .next t) :
    (∃ i rest, decode s.port = .ok (i, rest) ∧ exec i { s with port := rest } = .next t) ∨
    (∃ hd why rest, decode s.port = .error (.illegal hd why rest) ∧
      performIllegal hd { s with port := rest } = .next t) := stepBy_cases h

/-! ## This core is the machine of R9 at its parameters -/

theorem exec_eq_execWith : exec = execWith Config.core := by
  funext i s
  cases i <;> rfl

theorem step_eq_stepWith : step = stepWith Config.core := by
  funext s
  rw [step, stepWith, exec_eq_execWith]

theorem reset_eq_powerOn : State.reset = State.powerOn Config.core := rfl

end Sys2Proof.Machine
end

