-- ==== Sys2Proof/Laws/Family.lean ====
section
/-! SUPPORT. The operations of the four families: what each answers when it succeeds, one lemma each. -/

namespace Sys2Proof.Machine

/-! ## Phase accumulator (R110 to R114) -/

/-- Both outcomes of the first half of UPDATE. -/
theorem phaseStep_ok {c : Config} {isr phase period ph : F32} {crossed : Option Nat}
    (h : phaseStep c isr phase period = .ok (ph, crossed)) :
    ph = c.num.add phase isr ∧ c.num.isFinite ph = true ∧
    ((c.num.le period ph = false ∧ crossed = none) ∨
     (c.num.le period ph = true ∧ ∃ n, crossed = some n ∧ floorExact c ph period = .ok n ∧ n ≤ c.nMax)) := by
  obtain ⟨x, hx, h⟩ := bind_ok.mp h
  obtain ⟨hfin, rfl⟩ := fadd_ok.mp hx
  split at h
  · rename_i hge
    obtain ⟨n, hn, h⟩ := bind_ok.mp h
    split at h
    · exact nomatch h
    · cases h
      exact ⟨rfl, hfin, .inr ⟨hge, n, rfl, hn, by omega⟩⟩
  · rename_i hge
    cases h
    exact ⟨rfl, hfin, .inl ⟨by simpa using hge, rfl⟩⟩

theorem commitPhasor_ok {c : Config} {a b : Phasor} (h : commitPhasor c a = .ok b) :
    ∃ p v, a.nextPeriod = some p ∧ a.nextVolume = some v ∧
      b = { a with period := some p, volume := committedVolume c v } := by
  obtain ⟨p, hp, h⟩ := bind_ok.mp h
  obtain ⟨v, hv, h⟩ := bind_ok.mp h
  cases h
  exact ⟨p, v, readWritten_ok.mp hp, readWritten_ok.mp hv, rfl⟩

theorem commitPulse_ok {c : Config} {g t : Pulse} (h : commitPulse c g = .ok t) :
    ∃ a d, commitPhasor c g.acc = .ok a ∧ g.nextDuty = some d ∧ t = { g with acc := a, duty := some d } := by
  obtain ⟨a, ha, h⟩ := bind_ok.mp h
  obtain ⟨d, hd, h⟩ := bind_ok.mp h
  cases h
  exact ⟨a, d, ha, readWritten_ok.mp hd, rfl⟩

theorem wrapPhase_ok {c : Config} {ph : F32} {a b : Phasor} (h : wrapPhase c ph a = .ok b) :
    ∃ p, a.period = some p ∧ c.num.isFinite (c.num.fmod ph p) = true ∧ b = { a with phase := c.num.fmod ph p } := by
  obtain ⟨p, hp, h⟩ := bind_ok.mp h
  obtain ⟨r, hr, h⟩ := bind_ok.mp h
  obtain ⟨hf, rfl⟩ := ffmod_ok.mp hr
  cases h
  exact ⟨p, readWritten_ok.mp hp, hf, rfl⟩

/-- Everything UPDATE of TRI, NOISE or SMP can do. -/
theorem phasorUpdate_ok {c : Config} {isr : F32} {a b : Phasor} {n : Nat} (h : phasorUpdate c isr a = .ok (b, n)) :
    ∃ period, a.period = some period ∧
      ((phaseStep c isr a.phase period = .ok (c.num.add a.phase isr, none) ∧ n = 0 ∧
          b = { a with phase := c.num.add a.phase isr }) ∨
       (phaseStep c isr a.phase period = .ok (c.num.add a.phase isr, some n) ∧
          ∃ d, commitPhasor c a = .ok d ∧ wrapPhase c (c.num.add a.phase isr) d = .ok b)) := by
  obtain ⟨period, hp, h⟩ := bind_ok.mp h
  obtain ⟨⟨ph, crossed⟩, hs, h⟩ := bind_ok.mp h
  obtain ⟨rfl, -, -⟩ := phaseStep_ok hs
  refine ⟨period, readWritten_ok.mp hp, ?_⟩
  cases crossed with
  | none => cases h; exact .inl ⟨hs, rfl, rfl⟩
  | some k =>
    obtain ⟨d, hd, h⟩ := bind_ok.mp h
    obtain ⟨e, he, h⟩ := bind_ok.mp h
    cases h
    exact .inr ⟨hs, d, hd, he⟩

/-- Everything UPDATE of P1 or P2 can do. -/
theorem pulseUpdate_ok {c : Config} {isr : F32} {g t : Pulse} {n : Nat} (h : pulseUpdate c isr g = .ok (t, n)) :
    ∃ period, g.acc.period = some period ∧
      ((phaseStep c isr g.acc.phase period = .ok (c.num.add g.acc.phase isr, none) ∧ n = 0 ∧
          t = { g with acc := { g.acc with phase := c.num.add g.acc.phase isr } }) ∨
       (phaseStep c isr g.acc.phase period = .ok (c.num.add g.acc.phase isr, some n) ∧
          ∃ g' a, commitPulse c g = .ok g' ∧ wrapPhase c (c.num.add g.acc.phase isr) g'.acc = .ok a ∧
            t = { g' with acc := a })) := by
  obtain ⟨period, hp, h⟩ := bind_ok.mp h
  obtain ⟨⟨ph, crossed⟩, hs, h⟩ := bind_ok.mp h
  obtain ⟨rfl, -, -⟩ := phaseStep_ok hs
  refine ⟨period, readWritten_ok.mp hp, ?_⟩
  cases crossed with
  | none => cases h; exact .inl ⟨hs, rfl, rfl⟩
  | some k =>
    obtain ⟨g', hg, h⟩ := bind_ok.mp h
    obtain ⟨a, ha, h⟩ := bind_ok.mp h
    cases h
    exact .inr ⟨hs, g', a, hg, ha, rfl⟩

/-! ## Output shapers (R130, R131, R135) -/

theorem pulseLevel_ok {c : Config} {phase period duty volume out : F32} (h : pulseLevel c phase period duty volume = .ok out) :
    c.num.isFinite (c.num.mul duty period) = true ∧
    out = if c.num.le phase (c.num.mul duty period) then volume else c.num.neg volume := by
  obtain ⟨e, he, h⟩ := bind_ok.mp h
  obtain ⟨hf, rfl⟩ := fmul_ok.mp he
  refine ⟨hf, ?_⟩
  split at h <;> rename_i hc
  · cases h; simp [hc]
  · obtain ⟨-, rfl⟩ := fneg_ok.mp h; simp [hc]

theorem pulseGet_ok {c : Config} {isr o : F32} {g t : Pulse} (h : pulseGet c isr g = .ok (t, o)) :
    ∃ g' n p d, pulseUpdate c isr g = .ok (g', n) ∧ g'.acc.period = some p ∧ g'.duty = some d ∧
      pulseLevel c g'.acc.phase p d g'.acc.volume = .ok o ∧ t = { g' with acc := { g'.acc with out := o } } := by
  obtain ⟨⟨g', n⟩, hu, h⟩ := bind_ok.mp h
  obtain ⟨p, hp, h⟩ := bind_ok.mp h
  obtain ⟨d, hd, h⟩ := bind_ok.mp h
  obtain ⟨out, ho, h⟩ := bind_ok.mp h
  cases h
  exact ⟨g', n, p, d, hu, readWritten_ok.mp hp, readWritten_ok.mp hd, ho, rfl⟩

theorem triGet_ok {c : Config} {isr o : F32} {a b : Phasor} (h : triGet c isr a = .ok (b, o)) :
    ∃ a' n p t y, phasorUpdate c isr a = .ok (a', n) ∧ a'.period = some p ∧ fdiv c a'.phase p = .ok t ∧
      triangleRamp c t = .ok y ∧ fmul c y a'.volume = .ok o ∧ b = { a' with out := o } := by
  obtain ⟨⟨a', n⟩, hu, h⟩ := bind_ok.mp h
  obtain ⟨p, hp, h⟩ := bind_ok.mp h
  obtain ⟨t, ht, h⟩ := bind_ok.mp h
  obtain ⟨y, hy, h⟩ := bind_ok.mp h
  obtain ⟨out, ho, h⟩ := bind_ok.mp h
  cases h
  exact ⟨a', n, p, t, y, hu, readWritten_ok.mp hp, ht, hy, ho, rfl⟩

theorem noiseGet_ok {c : Config} {isr o : F32} {g t : Noise} (h : noiseGet c isr g = .ok (t, o)) :
    ∃ a n, phasorUpdate c isr g.acc = .ok (a, n) ∧
      ((n = 0 ∧ t = { g with acc := a } ∧ o = a.out) ∨
       (n ≠ 0 ∧ ∃ num den avg, ffromNat c (lfsrRun c g.metallic n g.lfsr 0).2 = .ok num ∧ ffromNat c n = .ok den ∧
          fdiv c num den = .ok avg ∧ fmul c avg a.volume = .ok o ∧
          t = { g with
            acc := { a with out := o }, lfsr := (lfsrRun c g.metallic n g.lfsr 0).1, average := avg })) := by
  obtain ⟨⟨a, n⟩, hu, h⟩ := bind_ok.mp h
  refine ⟨a, n, hu, ?_⟩
  dsimp only at h
  split at h <;> rename_i hn
  · cases h; exact .inl ⟨hn, rfl, rfl⟩
  · obtain ⟨num, h1, h⟩ := bind_ok.mp h
    obtain ⟨den, h2, h⟩ := bind_ok.mp h
    obtain ⟨avg, h3, h⟩ := bind_ok.mp h
    obtain ⟨out, h4, h⟩ := bind_ok.mp h
    cases h
    exact .inr ⟨hn, num, den, avg, h1, h2, h3, h4, rfl⟩

/-! ## Noise advances (R134, R135) -/

/-- The number counted in `n` advances is at most `n` more than the running count. -/
theorem lfsrRun_count_le (c : Config) (m : Bool) (n : Nat) (r : Lfsr) (k : Nat) :
    (lfsrRun c m n r k).2 ≤ k + n := by
  induction n generalizing r k with
  | zero => simp [lfsrRun]
  | succ n ih =>
    have h1 : lfsrCounted c m r ≤ 1 := by
      unfold lfsrCounted
      split <;> exact Bool.toNat_le _
    have := ih (lfsrAdvance m r) (k + lfsrCounted c m r)
    simp only [lfsrRun]
    omega

/-- Any property an advance keeps, `n` advances keep. -/
theorem lfsrRun_induction {P : Lfsr → Prop} {m : Bool} (step : ∀ r, P r → P (lfsrAdvance m r)) (c : Config) (n : Nat)
    (r : Lfsr) (k : Nat) (h : P r) : P (lfsrRun c m n r k).1 := by
  induction n generalizing r k with
  | zero => exact h
  | succ n ih => exact ih _ _ (step r h)

/-! ## Sample generators (R161, R170, R172) -/

theorem interp_ok {c : Config} {hp hc t y : F32} (h : interp c hp hc t = .ok y) :
    ∃ mu2 rest a b, raisedCosine c t = .ok mu2 ∧ fsub c (c.num.lit .one) mu2 = .ok rest ∧ fmul c hp rest = .ok a ∧
      fmul c hc mu2 = .ok b ∧ fadd c a b = .ok y := by
  obtain ⟨mu2, h1, h⟩ := bind_ok.mp h
  obtain ⟨rest, h2, h⟩ := bind_ok.mp h
  obtain ⟨a, h3, h⟩ := bind_ok.mp h
  obtain ⟨b, h4, h⟩ := bind_ok.mp h
  exact ⟨mu2, rest, a, b, h1, h2, h3, h4, h⟩

/-- The queue after `n` dequeues is the queue without its first `n` samples. -/
theorem sumSamples_queue {c : Config} {n : Nat} {s r : F32} {q t : List F32} (h : sumSamples c n s q = .ok (r, t)) :
    t = q.drop n := by
  induction n generalizing s q with
  | zero => cases h; rfl
  | succ n ih =>
    obtain ⟨s', -, h⟩ := bind_ok.mp h
    rw [ih h]
    cases q <;> simp

theorem smpGet_ok {c : Config} {isr o : F32} {g t : Smp} (h : smpGet c isr g = .ok (t, o)) :
    ∃ a n, phasorUpdate c isr g.acc = .ok (a, n) ∧
      ((1 < n ∧ smpAverage c n { g with acc := a } = .ok (t, o)) ∨
       (n = 1 ∧ smpInterpolate c (smpTake { g with acc := a }) = .ok (t, o)) ∨
       (n = 0 ∧ smpInterpolate c { g with acc := a } = .ok (t, o))) := by
  obtain ⟨⟨a, n⟩, hu, h⟩ := bind_ok.mp h
  refine ⟨a, n, hu, ?_⟩
  dsimp only at h
  split at h
  · exact .inl ⟨‹_›, h⟩
  · split at h
    · exact .inr (.inl ⟨‹_›, h⟩)
    · exact .inr (.inr ⟨by omega, h⟩)

/-- A loop that ends keeps whatever each iteration keeps, and ends where the phase no longer exceeds the period. -/
theorem directLoop_induction {c : Config} {P : DirectLoop → Prop} {isr : F32}
    (step : ∀ l ph sum, P l → c.num.lt (l.cur.period isr) l.ph = true → fsub c l.ph (l.cur.period isr) = .ok ph →
      fadd c l.sum (nextCurrent l.cur l.queue).value = .ok sum →
      P { ph := ph, n := l.n + 1, sum := sum, cur := nextCurrent l.cur l.queue, queue := (dequeue l.queue).2 })
    {room : Nat} {l t : DirectLoop} (h : directLoop c isr room l = .ok t) (hl : P l) :
    P t ∧ c.num.lt (t.cur.period isr) t.ph = false := by
  induction room generalizing l with
  | zero =>
    unfold directLoop at h
    split at h
    · obtain ⟨_, -, h⟩ := bind_ok.mp h
      exact nomatch h
    · cases h; exact ⟨hl, Bool.eq_false_iff.mpr ‹_›⟩
  | succ room ih =>
    unfold directLoop at h
    split at h
    · obtain ⟨ph, h1, h⟩ := bind_ok.mp h
      obtain ⟨sum, h2, h⟩ := bind_ok.mp h
      exact ih h (step l ph sum hl ‹_› h1 h2)
    · cases h; exact ⟨hl, Bool.eq_false_iff.mpr ‹_›⟩

theorem dsmpUpdate_ok {c : Config} {isr s : F32} {g t : Dsmp} {n : Nat} (h : dsmpUpdate c isr g = .ok (t, n, s)) :
    ∃ l, c.num.isFinite (c.num.add g.phase isr) = true ∧
      directLoop c isr c.nMax
        { ph := c.num.add g.phase isr, n := 0, sum := fZero, cur := g.cur, queue := g.queue } = .ok l ∧
      n = l.n ∧ s = l.sum ∧
      ((n = 0 ∧ t = { g with phase := l.ph, cur := l.cur, queue := l.queue }) ∨
       (n ≠ 0 ∧ dsmpCommit c { g with phase := l.ph, cur := l.cur, queue := l.queue } = .ok t)) := by
  obtain ⟨ph, hp, h⟩ := bind_ok.mp h
  obtain ⟨hf, rfl⟩ := fadd_ok.mp hp
  obtain ⟨l, hl, h⟩ := bind_ok.mp h
  refine ⟨l, hf, hl, ?_⟩
  split at h <;> rename_i hn
  · cases h; exact ⟨rfl, rfl, .inl ⟨hn, rfl⟩⟩
  · obtain ⟨g'', hg, h⟩ := bind_ok.mp h
    cases h; exact ⟨rfl, rfl, .inr ⟨hn, hg⟩⟩

theorem dsmpGet_ok {c : Config} {isr o : F32} {g t : Dsmp} (h : dsmpGet c isr g = .ok (t, o)) :
    ∃ g' n s, dsmpUpdate c isr g = .ok (g', n, s) ∧
      ((1 < n ∧ dsmpAverage c n s g' = .ok (t, o)) ∨
       (n = 1 ∧ dsmpInterpolate c isr (pushDsmp g'.cur.value g') = .ok (t, o)) ∨
       (n = 0 ∧ dsmpInterpolate c isr g' = .ok (t, o))) := by
  obtain ⟨⟨g', n, s⟩, hu, h⟩ := bind_ok.mp h
  refine ⟨g', n, s, hu, ?_⟩
  dsimp only at h
  split at h
  · exact .inl ⟨‹_›, h⟩
  · split at h
    · exact .inr (.inl ⟨‹_›, h⟩)
    · exact .inr (.inr ⟨by omega, h⟩)

/-! ## Mixer (R233, R236) -/

/-- Each tick changes one generator, and its output is that generator's get. -/
theorem tick_ok {c : Config} {isr o : F32} {ch : Channel} {s t : State} (h : tick c isr ch s = .ok (t, o)) :
    match ch with
    | .p1 => ∃ g, pulseGet c isr s.p1 = .ok (g, o) ∧ t = { s with p1 := g }
    | .p2 => ∃ g, pulseGet c isr s.p2 = .ok (g, o) ∧ t = { s with p2 := g }
    | .tri => ∃ g, triGet c isr s.tri = .ok (g, o) ∧ t = { s with tri := g }
    | .noise => ∃ g, noiseGet c isr s.noise = .ok (g, o) ∧ t = { s with noise := g }
    | .smp => ∃ g, smpGet c isr s.smp = .ok (g, o) ∧ t = { s with smp := g }
    | .dsmp => ∃ g, dsmpGet c isr s.dsmp = .ok (g, o) ∧ t = { s with dsmp := g } := by
  cases ch <;>
  · obtain ⟨⟨g, o'⟩, hg, h⟩ := bind_ok.mp h
    cases h
    exact ⟨g, hg, rfl⟩

theorem filterChain_ok {c : Config} {s t : State} {x y : F32} (h : filterChain c s x = .ok (t, y)) :
    ∃ f0 a f1 b f2, applyHighPass c s.f0 x = .ok (f0, a) ∧ applyHighPass c s.f1 a = .ok (f1, b) ∧
      applyLowPass c s.f2 b = .ok (f2, y) ∧ t = { s with f0 := f0, f1 := f1, f2 := f2 } := by
  obtain ⟨⟨f0, a⟩, h0, h⟩ := bind_ok.mp h
  obtain ⟨⟨f1, b⟩, h1, h⟩ := bind_ok.mp h
  obtain ⟨⟨f2, y'⟩, h2, h⟩ := bind_ok.mp h
  cases h
  exact ⟨f0, a, f1, b, f2, h0, h1, h2, rfl⟩

theorem getBody_ok {c : Config} {ch : Channel} {s t : State} (h : getBody c ch s = .ok t) :
    ∃ isr s' r, s.initDone = true ∧ s.invSr = some isr ∧ tick c isr ch s = .ok (s', r) ∧ t = putResult r s' := by
  obtain ⟨isr, hi, h⟩ := bind_ok.mp h
  obtain ⟨⟨s', r⟩, ht, h⟩ := bind_ok.mp h
  cases h
  obtain ⟨h1, h2⟩ := requireInit_ok.mp hi
  exact ⟨isr, s', r, h1, h2, ht, rfl⟩

/-- Everything a MIX that succeeds does: six gets, the mean, the filter chain, the clamp. -/
theorem mixBody_ok {c : Config} {s t : State} (h : mixBody c s = .ok t) :
    ∃ isr p1 p2 tri noise smp dsmp o0 o1 o2 o3 o4 o5 m s' y,
      s.initDone = true ∧ s.invSr = some isr ∧
      pulseGet c isr s.p1 = .ok (p1, o0) ∧ pulseGet c isr s.p2 = .ok (p2, o1) ∧ triGet c isr s.tri = .ok (tri, o2) ∧
      noiseGet c isr s.noise = .ok (noise, o3) ∧ smpGet c isr s.smp = .ok (smp, o4) ∧
      dsmpGet c isr s.dsmp = .ok (dsmp, o5) ∧
      weightedMean c o0 o1 o2 o3 o4 o5 = .ok m ∧
      filterChain c { s with p1 := p1, p2 := p2, tri := tri, noise := noise, smp := smp, dsmp := dsmp } m = .ok (s', y) ∧
      t = putResult (clamp c y) s' := by
  obtain ⟨isr, hi, h⟩ := bind_ok.mp h
  obtain ⟨⟨s1, o0⟩, h0, h⟩ := bind_ok.mp h
  obtain ⟨⟨s2, o1⟩, h1, h⟩ := bind_ok.mp h
  obtain ⟨⟨s3, o2⟩, h2, h⟩ := bind_ok.mp h
  obtain ⟨⟨s4, o3⟩, h3, h⟩ := bind_ok.mp h
  obtain ⟨⟨s5, o4⟩, h4, h⟩ := bind_ok.mp h
  obtain ⟨⟨s6, o5⟩, h5, h⟩ := bind_ok.mp h
  obtain ⟨m, hm, h⟩ := bind_ok.mp h
  obtain ⟨⟨s', y⟩, hf, h⟩ := bind_ok.mp h
  cases h
  obtain ⟨e1, e2⟩ := requireInit_ok.mp hi
  obtain ⟨g1, k1, rfl⟩ := tick_ok (ch := .p1) h0
  obtain ⟨g2, k2, rfl⟩ := tick_ok (ch := .p2) h1
  obtain ⟨g3, k3, rfl⟩ := tick_ok (ch := .tri) h2
  obtain ⟨g4, k4, rfl⟩ := tick_ok (ch := .noise) h3
  obtain ⟨g5, k5, rfl⟩ := tick_ok (ch := .smp) h4
  obtain ⟨g6, k6, rfl⟩ := tick_ok (ch := .dsmp) h5
  exact ⟨isr, g1, g2, g3, g4, g5, g6, o0, o1, o2, o3, o4, o5, m, s', y, e1, e2, k1, k2, k3, k4, k5, k6, hm, hf, rfl⟩

end Sys2Proof.Machine
end

