-- ==== Sys2Proof/Laws/PerInstr.lean ====
section
/-! SUPPORT. Per-instruction families of statements about a command as syntax. WordCount: the number of words the encoder
writes is the length the decoder reads from the header (30_encoding.md R82, R84). -/

namespace Sys2Proof.Laws.WordCount

/-- The encoded command has as many words as its header calls for. -/
def Statement (i : Instr) : Prop := (encode i).length = commandLength (headerOf i)

theorem init (sr : F32) : Statement (.init sr) := by
  simp [Statement, encode, operandWords, headerOf, commandLength, Opcode.operands]

theorem clear : Statement .clear := by
  simp [Statement, encode, operandWords, headerOf, commandLength, Opcode.operands]

theorem mix : Statement .mix := by
  simp [Statement, encode, operandWords, headerOf, commandLength, Opcode.operands]

theorem get (ch : Channel) : Statement (.get ch) := by
  simp [Statement, encode, operandWords, headerOf, commandLength, Opcode.operands]

theorem setfreq (ch : Channel) (hz : F32) : Statement (.setfreq ch hz) := by
  simp [Statement, encode, operandWords, headerOf, commandLength, Opcode.operands]

theorem setvol (ch : Channel) (v : F32) : Statement (.setvol ch v) := by
  simp [Statement, encode, operandWords, headerOf, commandLength, Opcode.operands]

theorem setduty (ch : Channel) (d : F32) : Statement (.setduty ch d) := by
  simp [Statement, encode, operandWords, headerOf, commandLength, Opcode.operands]

theorem setmetal (b : Bool) : Statement (.setmetal b) := by
  simp [Statement, encode, operandWords, headerOf, commandLength, Opcode.operands]

theorem addsample (s : F32) : Statement (.addsample s) := by
  simp [Statement, encode, operandWords, headerOf, commandLength, Opcode.operands]

theorem adddirect (p s : F32) : Statement (.adddirect p s) := by
  simp [Statement, encode, operandWords, headerOf, commandLength, Opcode.operands]

end Sys2Proof.Laws.WordCount
end

