-- ==== Sys2Proof/Tests/Slice0.lean ====
section
/-! SUPPORT. Tests: well-formedness, decoding of words written out from 30_encoding.md, and one-step tests with values
from the spec's vectors (95_test_vectors.md, named V1 to V111 there). Then, for each obligation with hypotheses, a
witness: a state and operands that meet them all, at a boundary of each clause. -/

namespace Sys2Proof.Tests

set_option Elab.async false

open Sys2Proof Sys2Proof.Machine

/-! ## Helpers -/

/-- The state a command ends in (the state before it, if the command had no next state). -/
def result (i : Instr) (s : State) : State :=
  match exec i s with
  | .next t => t
  | .fault _ => s
  | .refused _ => s

/-- `result` over a list of commands. -/
def after : List Instr → State → State
  | [], s => s
  | i :: is, s => after is (result i s)

/-- The state after one step (the same state, if there is no step). -/
def stepped (s : State) : State :=
  match step s with
  | .next t => t
  | .fault _ => s
  | .refused _ => s

/-- Cause and header of the fault a command ends in. -/
def faultOf (i : Instr) (s : State) : Bool × BitVec 4 × Word :=
  let t := result i s
  (t.faultValid, t.faultCause, t.faultHdr)

/-- The word a command adds to the result port. -/
def resultWord (i : Instr) (s : State) : Option F32 := (result i s).results.getLast?

/-- Power-on, then INIT 8000.0. -/
def init8k : State := result (.init 0x45FA0000#32) State.reset

/-- Power-on, then INIT 44100.0. -/
def init44k : State := result (.init 0x472C4400#32) State.reset

/-- INIT 44100.0 and every setter, all volumes 1.0 (the boot of V62). -/
def booted : State :=
  after
    [ .setfreq .p1 0x43DC0000#32, .setfreq .p2 0x435C0000#32, .setfreq .tri 0x42DC0000#32,
      .setfreq .noise 0x45FA0000#32, .setfreq .smp 0x472C4400#32, .setvol .p1 0x3F800000#32,
      .setvol .p2 0x3F800000#32, .setvol .tri 0x3F800000#32, .setvol .noise 0x3F800000#32,
      .setvol .smp 0x3F800000#32, .setvol .dsmp 0x3F800000#32, .setduty .p1 0x3F000000#32,
      .setduty .p2 0x3E800000#32 ] init44k

/-- `booted` after one tick of each generator; P1 to NOISE do not cross at their next tick. -/
def ticked : State :=
  after [.get .p1, .get .p2, .get .tri, .get .noise, .setfreq .smp 0x462C4400#32, .get .smp] booted

/-- INV_SR at 44100 Hz. -/
def isr44 : F32 := 0x37BE37C6#32

/-- INV_SR at 8000 Hz. -/
def isr8 : F32 := 0x3903126F#32

/-! ## Well-formedness -/

theorem test_setduty_of_tri_ill_formed : (Instr.setduty .tri 0x3F000000#32).wellFormed = false := by decide
theorem test_setduty_of_dsmp_ill_formed : (Instr.setduty .dsmp 0x3F000000#32).wellFormed = false := by decide
theorem test_setduty_of_p2_well_formed : (Instr.setduty .p2 0x7FC00000#32).wellFormed = true := by decide

/-! ## Decoding: words written out field by field from R80: OP, CH, RSV, B -/

theorem test_decode_init : decode [0b0001#4 ++ 0b000#3 ++ 0#24 ++ 0b0#1, 0x45FA0000#32] =
    .ok (.init 0x45FA0000#32, []) := by decide
theorem test_decode_clear : decode [0b0010#4 ++ 0b000#3 ++ 0#24 ++ 0b0#1] = .ok (.clear, []) := by decide
theorem test_decode_mix : decode [0b0011#4 ++ 0b000#3 ++ 0#24 ++ 0b0#1] = .ok (.mix, []) := by decide
theorem test_decode_get : decode [0b0100#4 ++ 0b010#3 ++ 0#24 ++ 0b0#1] = .ok (.get .tri, []) := by decide
theorem test_decode_setfreq : decode [0b0101#4 ++ 0b011#3 ++ 0#24 ++ 0b0#1, 0x45FA0000#32] =
    .ok (.setfreq .noise 0x45FA0000#32, []) := by decide
theorem test_decode_setvol : decode [0b0110#4 ++ 0b101#3 ++ 0#24 ++ 0b0#1, 0x3ECCCCCD#32] =
    .ok (.setvol .dsmp 0x3ECCCCCD#32, []) := by decide
theorem test_decode_setduty : decode [0b0111#4 ++ 0b001#3 ++ 0#24 ++ 0b0#1, 0x3E800000#32] =
    .ok (.setduty .p2 0x3E800000#32, []) := by decide
theorem test_decode_setmetal : decode [0b1000#4 ++ 0b000#3 ++ 0#24 ++ 0b1#1, 0x30000000#32] =
    .ok (.setmetal true, [0x30000000#32]) := by decide
theorem test_decode_addsample : decode [0b1001#4 ++ 0b000#3 ++ 0#24 ++ 0b0#1, 0xBF800000#32] =
    .ok (.addsample 0xBF800000#32, []) := by decide
theorem test_decode_adddirect : decode [0b1010#4 ++ 0b000#3 ++ 0#24 ++ 0b0#1, 0x37BE37C6#32, 0x3F800000#32] =
    .ok (.adddirect 0x37BE37C6#32 0x3F800000#32, []) := by decide

/-- V71: each header is illegal, for the item named and after the words named. -/
theorem test_illegal_headers : ∀ row ∈
    [ (0x00000000#32, Illegal.reservedOpcode, 0), (0xB0000000#32, .reservedOpcode, 0),
      (0xF0000000#32, .reservedOpcode, 0), (0x4C000000#32, .reservedChannel, 0), (0x5E000000#32, .reservedChannel, 1),
      (0x74000000#32, .notPulseChannel, 1), (0x7A000000#32, .notPulseChannel, 1), (0x32000000#32, .strayChannel, 0),
      (0x12000000#32, .strayChannel, 1), (0x82000001#32, .strayChannel, 0), (0x30000002#32, .reservedBits, 0),
      (0x41000000#32, .reservedBits, 0), (0x80000003#32, .reservedBits, 0), (0x30000001#32, .strayBool, 0),
      (0x90000001#32, .strayBool, 1) ],
    decode (row.1 :: List.replicate row.2.2 0#32) = .error (.illegal row.1 row.2.1 []) := by decide

/-- A table row's word, two operand words of zeros. -/
theorem test_table_word : decodeTableWord 32 0xA0000000 = some (.adddirect 0#32 0#32) := by decide

/-- The word `withFetchWord` places is the one the next step performs. -/
theorem test_with_fetch_word : (stepped (State.reset.withFetchWord 32 0x30000000)).faultCause = 2#4 := by decide

/-- V72. -/
theorem test_transport_bytes :
    wordsOfBytes .little [0x00#8, 0x00#8, 0x00#8, 0x10#8, 0x00#8, 0x44#8, 0x2C#8, 0x47#8, 0x77#8] =
      ([0x10000000#32, 0x472C4400#32], [0x77#8]) := by decide

/-- R90: comment, upper-case mnemonic, hex operand. -/
theorem test_assemble_line :
    Assembler.assembleLine "SETVOL p1, #0x80000000 ; minus zero".toList = some [0x60000000#32, 0x80000000#32] := by
  decide +kernel

/-! ## One command at a time -/

/-- V50, first row. -/
theorem test_init_coefficients :
    (init44k.invSr, init44k.f0.alpha, init44k.f1.alpha, init44k.f2.alpha) =
      (some 0x37BE37C6#32, some 0x3F7CC248#32, some 0x3F70E5F3#32, some 0x3F2A83BB#32) := by decide +kernel
/-- V85. -/
theorem test_init_nan : faultOf (.init 0x7FC00000#32) State.reset = (true, 3#4, 0x10000000#32) := by decide +kernel

/-- V62, MIX 1. -/
theorem test_mix_first : resultWord .mix booted = some 0x3E2D66B9#32 := by decide +kernel
/-- V62, MIX 3: the three results. -/
theorem test_mix_three :
    (after [.addsample 0x3F800000#32, .adddirect 0x37BE37C6#32 0x3F800000#32, .mix, .mix, .mix] booted).results =
      [0x3E2D66B9#32, 0x3F4E163E#32, 0x3F4B9AC4#32] := by decide +kernel

/-- V2, d = 0.25, ticks 1 to 3. -/
theorem test_get_pulse :
    (after [.setfreq .p1 0x447A0000#32, .setvol .p1 0x3F000000#32, .setduty .p1 0x3E800000#32, .get .p1, .get .p1,
      .get .p1] init8k).results = [0x3F000000#32, 0x3F000000#32, 0xBF000000#32] := by decide +kernel
/-- V10, ticks 1 to 4. -/
theorem test_get_triangle :
    (after [.setfreq .tri 0x447A0000#32, .setvol .tri 0x3F800000#32, .get .tri, .get .tri, .get .tri, .get .tri]
      init8k).results = [0xBF000000#32, 0x00000000#32, 0x3F000000#32, 0x3F800000#32] := by decide +kernel

/-- V21: two advances at tick 2. -/
theorem test_noise_two_advances :
    (after [.setfreq .noise 0x47AC4400#32, .setvol .noise 0x3F800000#32, .get .noise, .get .noise] init44k).noise.lfsr =
      0x1000#15 := by decide +kernel
/-- V23: where the two modes part. -/
theorem test_lfsr_tenth_state : (lfsrAdvance false 0x0040#15, lfsrAdvance true 0x0040#15) = (0x0020#15, 0x4020#15) := by
  decide
/-- V24: the other sample point. -/
theorem test_post_shift_counts_bit_after :
    lfsrRun { Config.core with samplePoint := .postShift } false 1 0x0001#15 0 = (0x4000#15, 0) := by decide

/-- V30, ticks 2 and 3. -/
theorem test_smp_box_filter :
    (after [.setfreq .smp 0x47AC4400#32, .setvol .smp 0x3F800000#32, .get .smp, .addsample 0x3F000000#32,
      .addsample 0x3E800000#32, .addsample 0x3F800000#32, .get .smp, .get .smp] init44k).results =
      [0x00000000#32, 0x3EC00000#32, 0x3F000000#32] := by decide +kernel
/-- V31, ticks 1 to 3. -/
theorem test_smp_interpolation :
    (after [.setfreq .smp 0x462C4400#32, .setvol .smp 0x3F800000#32, .addsample 0x3F800000#32, .get .smp, .get .smp,
      .get .smp] init44k).results = [0x3E15F61A#32, 0x3F000000#32, 0x3F5A8278#32] := by decide +kernel
/-- V41, ticks 1 to 4: two entries in one tick, then a reused entry. -/
theorem test_dsmp_entries :
    (after [.setvol .dsmp 0x3ECCCCCD#32, .adddirect 0x373E37C6#32 0x3F000000#32, .adddirect 0x383E37C6#32 0x3E800000#32,
      .get .dsmp, .get .dsmp, .get .dsmp, .get .dsmp] init44k).results =
      [0x00000000#32, 0x3EC00000#32, 0x3EA3E1DA#32, 0x3EB6A09F#32] := by decide +kernel

/-- V6. -/
theorem test_setfreq_smallest : (result (.setfreq .p1 0x00200001#32) State.reset).p1.acc.nextPeriod =
    some 0x7F7FFFF8#32 := by decide +kernel
/-- V88. -/
theorem test_setfreq_overflow : faultOf (.setfreq .p1 0x00200000#32) State.reset = (true, 4#4, 0x50000000#32) := by
  decide +kernel

/-- V43. -/
theorem test_setvol_direct_gain : (result (.setvol .dsmp 0x3B83126F#32) State.reset).dsmp.nextVolume =
    some 0x3C23D70B#32 := by decide +kernel
/-- V90. -/
theorem test_setvol_negative : faultOf (.setvol .p1 0xBDCCCCCD#32) State.reset = (true, 5#4, 0x60000000#32) := by decide

/-- V6. -/
theorem test_setduty_zero : (result (.setduty .p1 0#32) State.reset).p1.nextDuty = some 0#32 := by decide
/-- V91. -/
theorem test_setduty_negative : faultOf (.setduty .p1 0xBDCCCCCD#32) State.reset = (true, 6#4, 0x70000000#32) := by
  decide

/-- V25. -/
theorem test_setmetal_at_once :
    (result (.setmetal true) State.reset).noise.metallic = true := by decide
/-- R267: a faulted core takes no effect from it. -/
theorem test_setmetal_when_faulted : (after [.mix, .setmetal true] State.reset).noise.metallic = false := by decide

/-- V92. -/
theorem test_addsample_infinity : faultOf (.addsample 0x7F800000#32) State.reset = (true, 7#4, 0x90000000#32) := by decide
/-- R62, R63: oldest first. -/
theorem test_addsample_order : (after [.addsample 1#32, .addsample 2#32] State.reset).smp.queue = [1#32, 2#32] := by
  decide
/-- V95: the period is checked first. -/
theorem test_adddirect_period_first : faultOf (.adddirect 0#32 0x7FC00000#32) State.reset = (true, 8#4, 0xA0000000#32) := by
  decide
/-- V93. -/
theorem test_adddirect_nan : faultOf (.adddirect 0x3A83126F#32 0x7FC00000#32) State.reset =
    (true, 7#4, 0xA0000000#32) := by decide
/-- R180. -/
theorem test_clear_keeps_pending : (after [.setvol .smp 0x3F800000#32, .addsample 1#32, .clear] State.reset).smp =
    { State.reset.smp with acc := { State.reset.smp.acc with nextVolume := some 0x3F800000#32 } } := by decide

/-! ## The machine at other parameter values (R9) -/

/-- `result` with parameters. -/
def resultWith (c : Config) (i : Instr) (s : State) : State :=
  match execWith c i s with
  | .next t => t
  | .fault _ => s
  | .refused _ => s

/-- V24: with POST_SHIFT the first tick counts the bit after the shift. -/
theorem test_machine_post_shift :
    let s := after [.setfreq .noise 0x472C4400#32, .setvol .noise 0x3F800000#32] init44k
    ((resultWith { Config.core with samplePoint := .postShift } (.get .noise) s).results,
      (resultWith Config.core (.get .noise) s).results) = ([0x00000000#32], [0x3F800000#32]) := by decide +kernel
/-- V33, with a queue of two: DROP_OLDEST, and GROW with a limit of two. -/
theorem test_machine_full_queue :
    let s := after [.addsample 0x3F800000#32, .addsample 0x40000000#32] State.reset
    let t := resultWith { Config.core with qCap := 2, qLimit := some 2 } (.addsample 0x40400000#32) s
    (resultWith { Config.core with qCap := 2, overflowPolicy := .dropOldest } (.addsample 0x40400000#32) s).smp.queue =
      [0x40000000#32, 0x40400000#32] ∧
    (t.faultValid, t.faultCause, t.faultHdr) = (true, 11#4, 0x90000000#32) := by decide +kernel
/-- R36, R290: the seed is the parameter's. -/
theorem test_machine_seed : (State.powerOn { Config.core with lfsrSeed := 0x1234#15 }).noise.lfsr = 0x1234#15 := by decide
/-- D2: a number format whose finite values end at 2.0 refuses the sample 3.0. -/
theorem test_machine_number_format :
    (resultWith { Config.core with
        num := { NumFmt.binary32 with isFinite := fun x => decide (F32.magBits x ≤ 0x40000000) } }
      (.addsample 0x40400000#32) State.reset).faultCause = 7#4 := by decide +kernel

/-- V98 is 2^31 iterations; with room for three the loop ends the same way. -/
theorem test_zero_progress_direct_entry :
    directLoop Config.core isr44 3 { ph := isr44, n := 0, sum := fZero, cur := .entry ⟨0x00000001#32, fZero⟩, queue := [] } =
      .error .countOverflow := by decide +kernel
/-- R201 as it is written asks for ALPHA < 1; at the highest rate it rounds to 1.0 (log 18). -/
theorem test_alpha_rounds_to_one : (result (.init 0x7F7FFFFF#32) State.reset).f0.alpha = some 0x3F800000#32 := by
  decide +kernel
/-- 93 U9 with cause 11: a full queue under GROW with a finite limit (V99, V33). -/
theorem test_queue_limit : enqueue { Config.core with qCap := 2, qLimit := some 2 } [1#32, 2#32] 3#32 =
    .error .queueOverflow := by decide
/-- V33, with a queue of two. -/
theorem test_drop_oldest : enqueue { Config.core with qCap := 2, overflowPolicy := .dropOldest } [1#32, 2#32] 3#32 =
    .ok [2#32, 3#32] := by decide

/-! ## Witnesses: hypotheses that can be met -/

/-- The shared registers keep the invariants: each check of `Phasor.Kept` as a Boolean. -/
def phasorChecks (d : Bool) (a : Phasor) : Bool :=
  nonnegFinite a.phase && a.period.all (positiveFinite Config.core) && a.nextPeriod.all (positiveFinite Config.core) &&
  volumeRange fOne a.volume && a.nextVolume.all (pendingRange fOne) && F32.isFinite a.out &&
  a.period.all (F32.lt a.phase) && (!d || a.period.isSome)

theorem phasor_kept {d : Bool} {a : Phasor} (h : phasorChecks d a = true) : a.Kept d := by
  simp only [phasorChecks, Bool.and_eq_true, Bool.or_eq_true, Bool.not_eq_true'] at h
  obtain ⟨⟨⟨⟨⟨⟨⟨h1, h2⟩, h3⟩, h4⟩, h5⟩, h6⟩, h7⟩, h8⟩ := h
  exact ⟨h1, h2, h3, h4, h5, h6, h7, fun hd => h8.resolve_left (by simp [hd])⟩

/-- The invariants of a state from its checks: those of the shared registers, and the rest field by field. -/
theorem inv_intro {s : State}
    (acc : phasorChecks s.initDone s.p1.acc && phasorChecks s.initDone s.p2.acc && phasorChecks s.initDone s.tri &&
      phasorChecks s.initDone s.noise.acc && phasorChecks s.initDone s.smp.acc)
    (glob : s.invSr.all (positiveFinite Config.core) = true ∧ (s.initDone = true → s.invSr.isSome = true) ∧
      s.faultValid = false ∧ s.faultCause = 0#4 ∧ s.faultHdr = 0#32 ∧ s.results.all F32.isFinite = true)
    (duty : [s.p1, s.p2].Forall fun g => g.duty.all (inUnit Config.core) = true ∧
      g.nextDuty.all (inUnit Config.core) = true ∧
      (s.initDone = true → g.duty = none → g.acc.phase = fZero ∧ g.acc.period = s.invSr))
    (noise : s.noise.lfsr ≠ 0#15 ∧ inUnit Config.core s.noise.average = true ∧
      pendingRange s.noise.acc.volume s.noise.acc.out = true)
    (smp : s.smp.queue.all F32.isFinite = true ∧ F32.isFinite s.smp.hPrev = true ∧ F32.isFinite s.smp.hCur = true)
    (dsmp : s.dsmp.Kept s.invSr) (f0 : s.f0.Kept s.initDone) (f1 : s.f1.Kept s.initDone) (f2 : s.f2.Kept s.initDone) :
    s.Inv := by
  simp only [Bool.and_eq_true] at acc
  obtain ⟨⟨⟨⟨a1, a2⟩, a3⟩, a4⟩, a5⟩ := acc
  obtain ⟨g1, g2, g3, g4, g5, g6⟩ := glob
  obtain ⟨⟨d1, d2, d3⟩, e1, e2, e3⟩ := duty
  exact ⟨g1, g2, fun _ => ⟨g4, g5⟩, fun h => by simp [g3] at h, ⟨phasor_kept a1, d1, d2, d3⟩,
    ⟨phasor_kept a2, e1, e2, e3⟩, phasor_kept a3, ⟨phasor_kept a4, noise.1, noise.2.1, noise.2.2⟩,
    ⟨phasor_kept a5, smp.1, smp.2⟩, dsmp, f0, f1, f2, g6⟩

theorem witness_inv_at_booted : booted.Inv := by
  apply inv_intro <;> first | decide +kernel | (constructor <;> decide +kernel)

theorem witness_inv_at_init44k : init44k.Inv := by
  apply inv_intro <;> first | decide +kernel | (constructor <;> decide +kernel)

/-- INIT at the lowest rate, TRI at 2^-127 Hz and NOISE at 44100 Hz, one tick each: the next tick of TRI overflows the
phase, that of NOISE elapses more than N_MAX periods. -/
def slow : State :=
  after [.init 0x00200001#32, .setfreq .tri 0x00400000#32, .setvol .tri 0x3F800000#32, .get .tri,
    .setfreq .noise 0x472C4400#32, .setvol .noise 0x3F800000#32, .get .noise] State.reset

theorem witness_inv_at_slow : slow.Inv := by
  apply inv_intro <;> first | decide +kernel | (constructor <;> decide +kernel)

/-- V42 before its second GET: one direct entry whose period vanishes against INV_SR, with value 1.0. -/
def stalled : State :=
  after [.setvol .dsmp 0x3ECCCCCD#32, .adddirect 0x00000001#32 0x3F800000#32, .get .dsmp] init44k

theorem witness_inv_at_stalled : stalled.Inv := by
  apply inv_intro <;> first | decide +kernel | (constructor <;> decide +kernel)

/-- `init44k` after one DSMP tick: the next one iterates once, and NEXT_VOLUME is unwritten. -/
def unvoiced : State := result (.get .dsmp) init44k

theorem witness_inv_at_unvoiced : unvoiced.Inv := by
  apply inv_intro <;> first | decide +kernel | (constructor <;> decide +kernel)

theorem witness_moderate : booted.Moderate := by constructor <;> decide +kernel
theorem witness_booted : booted.Booted := by
  refine ⟨by decide +kernel, fun ch => ?_⟩
  cases ch <;> (simp only [State.Pending]; decide +kernel)

theorem witness_inv_sr : booted.invSr = some isr44 ∧ ticked.invSr = some isr44 ∧ init44k.invSr = some isr44 := by
  decide +kernel

/-- Decoding, encoding, stepping. -/
theorem witness_HeaderLegalIffOneTableRowSelects :
    decodeCommand 0x4A000000#32 0#32 0#32 = .ok (.get .dsmp) ∧
    (⟨.get, 0x40000000#32, 0xF1FFFFFF#32, true⟩ ∈ opcodeRows ∧
      OpcodeRow.selects ⟨.get, 0x40000000#32, 0xF1FFFFFF#32, true⟩ 0x4A000000#32 = true) ∧
    OpcodeRow.selects ⟨.get, 0x40000000#32, 0xF1FFFFFF#32, true⟩ 0x4C000000#32 = false := by decide

theorem witness_IllegalHeadersAreTheSixItems :
    [0x00000000#32, 0xB0000000#32, 0x4C000000#32, 0x6E000000#32, 0x74000000#32, 0xA2000000#32, 0x31000000#32,
     0x30000001#32, 0x10000000#32, 0xA0000000#32, 0x6A000000#32, 0x72000000#32, 0x80000001#32].Forall fun h =>
    let s := { State.reset with port := [h, 0#32, 0#32] }
    s.port = h :: [0#32, 0#32] ∧ operandCount h ≤ [0#32, 0#32].length ∧ s.faultValid = false := by decide +kernel

theorem witness_NoStepWithoutWholeCommand :
    State.reset.port = [] ∧ [0#32].length < operandCount 0xA0000000#32 := by decide

theorem witness_StepPerformsHeadCommand :
    (Instr.setduty .p2 0x3F800000#32).wellFormed = true ∧
    (State.deliver [0x72000000#32, 0x3F800000#32, 0x30000000#32] State.reset).port =
      encode (.setduty .p2 0x3F800000#32) ++ [0x30000000#32] := by decide

theorem witness_FaultedCoreAbsorbsCommands :
    let s := { result .mix State.reset with port := [0x20000000#32] }
    let s' := { result .mix State.reset with port := [0x30000001#32, 0x20000000#32] }
    s.faultValid = true ∧ decode s.port = .ok (.clear, []) ∧
    s'.faultValid = true ∧ decode s'.port = .error (.illegal 0x30000001#32 .strayBool [0x20000000#32]) := by
  decide

theorem witness_FaultEntryIsPrecise :
    State.reset.faultValid = false ∧ exec .mix State.reset = .next (result .mix State.reset) ∧
    (result .mix State.reset).faultValid = true := ⟨by decide, rfl, by decide⟩

theorem witness_TicksBeforeInitFault : State.reset.faultValid = false ∧ State.reset.initDone = false := by decide

/-- Setters: the smallest and largest accepted operands, and operands on the other side of each limit. -/
theorem witness_SetfreqWritesReciprocalOrFaults :
    ([0x00200001#32, 0x7F7FFFFF#32].Forall fun hz =>
      F32.gt hz fZero = true ∧ F32.isFinite hz = true ∧ F32.isInf (F32.div fOne hz) = false) ∧
    F32.gt 0x80000000#32 fZero = false ∧ F32.gt 0x7FC00000#32 fZero = false ∧ F32.isFinite 0x7F800000#32 = false ∧
    F32.isInf (F32.div fOne 0x00200000#32) = true := by decide +kernel

theorem witness_ReciprocalOverflowsUpTo2PowMinus128 : [0x00000001#32, 0x7F7FFFFF#32].Forall fun hz =>
    0 < hz.toNat ∧ hz.toNat < 0x7F800000 := by decide +kernel

theorem witness_SetvolWritesPendingVolumeOrFaults :
    ([0x80000000#32, 0x00000000#32, 0x3F800000#32].Forall fun v => F32.ge v fZero = true ∧ F32.le v fOne = true) ∧
    F32.ge 0x80000001#32 fZero = false ∧ F32.le 0x3F800001#32 fOne = false ∧ F32.ge 0x7FC00000#32 fZero = false := by
  decide +kernel

theorem witness_SetdutyWritesPendingDutyOrFaults :
    ([0x80000000#32, 0x00000000#32, 0x3F800000#32].Forall fun d => F32.ge d fZero = true ∧ F32.le d fOne = true) ∧
    F32.ge 0x80000001#32 fZero = false ∧ F32.le 0x3F800001#32 fOne = false ∧
    Channel.tri ≠ .p1 ∧ Channel.tri ≠ .p2 := by decide +kernel

/-- ADDSAMPLE and ADDDIRECT: the largest finite sample, the smallest period, and what lies beyond. -/
theorem witness_AddsampleAppendsOrFaults : State.reset.faultValid = false ∧ F32.isFinite 0x7F7FFFFF#32 = true ∧
    F32.isFinite 0xFF800000#32 = false := by decide

theorem witness_AdddirectAppendsOrFaults :
    (F32.gt 0x00000001#32 fZero = true ∧ F32.isFinite 0x00000001#32 = true) ∧ F32.isFinite 0xFF7FFFFF#32 = true ∧
    F32.isFinite 0x7F800000#32 = false ∧ F32.gt 0x80000000#32 fZero = false := by decide

theorem witness_EnqueueFollowsOverflowPolicy :
    let c := { Config.core with qCap := 1, qLimit := some 2 }
    let d := { Config.core with qCap := 1, overflowPolicy := .dropOldest }
    ([] : List F32).length < c.qCap ∧
    (c.qCap ≤ [1#32].length ∧ c.overflowPolicy = .grow ∧ c.qLimit = some 2 ∧ [1#32].length + 1 ≤ 2) ∧
    (c.qCap ≤ [1#32, 2#32].length ∧ 2 < [1#32, 2#32].length + 1) ∧
    (Config.core.qLimit = none ∧ Config.core.qCap ≤ (List.replicate 256 fZero).length) ∧
    (d.qCap ≤ [1#32].length ∧ d.overflowPolicy = .dropOldest ∧ [1#32].length = d.qCap ∧ 0 < d.qCap) := by decide +kernel

/-- INIT: the smallest and largest accepted rates, and rates on the other side of each limit. -/
theorem witness_InitResetsForSampleRateOrFaults :
    ([0x00200001#32, 0x7F7FFFFF#32].Forall fun sr =>
      F32.gt sr fZero = true ∧ F32.isFinite sr = true ∧ F32.isInf (F32.div fOne sr) = false) ∧
    F32.gt 0x00000000#32 fZero = false ∧ F32.isFinite 0x7F800000#32 = false ∧
    F32.isInf (F32.div fOne 0x00200000#32) = true := by decide +kernel

/-- For the statements about a state INIT leaves. -/
theorem witness_init_succeeds : [0x00200001#32, 0x472C4400#32, 0x7F7FFFFF#32].Forall fun sr =>
    exec (.init sr) State.reset = .next (result (.init sr) State.reset) ∧
    (result (.init sr) State.reset).faultValid = false := by
  refine ⟨⟨rfl, ?_⟩, ⟨rfl, ?_⟩, ⟨rfl, ?_⟩⟩ <;> decide +kernel

/-- Phase accumulator: no crossing; a crossing that meets the period exactly, and one after three periods. -/
theorem witness_number_format : Config.core.num = NumFmt.binary32 := rfl

theorem witness_UpdateBelowPeriodOnlyMovesPhase :
    let a := { Phasor.powerOn with period := some 0x3A83126F#32 }
    a.period = some 0x3A83126F#32 ∧ F32.isFinite (F32.add a.phase isr8) = true ∧
    F32.ge (F32.add a.phase isr8) 0x3A83126F#32 = false := by decide +kernel

theorem witness_UpdateAtCrossingCommitsAndWraps :
    [ (1, 0x3F800000#32, 0x3F800000#32), (3, 0x40600000#32, 0x3F800000#32),
      (1, 0x3FFFFFFF#32, 0x3F800000#32) ].Forall fun row =>
    let n : Nat := row.1
    let ph : F32 := row.2.1
    let p : F32 := row.2.2
    let a : Phasor := { Phasor.powerOn with period := some p, nextPeriod := some 0x3F000000#32, nextVolume := some fOne }
    F32.isFinite ph = true ∧ F32.ge ph p = true ∧ 0 < F32.units p ∧ (n : Int) * F32.units p ≤ F32.units ph ∧
    F32.units ph < ((n : Int) + 1) * F32.units p ∧ n ≤ Config.core.nMax ∧
    F32.isFinite (F32.fmod ph 0x3F000000#32) = true ∧ F32.add a.phase ph = ph ∧ a.period = some p := by decide +kernel

theorem witness_CrossingFaultsInOrder :
    let a := { Phasor.powerOn with period := some fOne }
    let g : Pulse := { acc := { a with nextPeriod := some fOne, nextVolume := some fOne }, duty := none, nextDuty := none }
    (F32.add a.phase 0x4F000000#32 = 0x4F000000#32 ∧ F32.isFinite 0x4F000000#32 = true ∧
      F32.ge 0x4F000000#32 fOne = true ∧ 0 < F32.units fOne ∧
      ((Config.core.nMax : Int) + 1) * F32.units fOne ≤ F32.units 0x4F000000#32) ∧
    (F32.add a.phase 0x4EFFFFFF#32 = 0x4EFFFFFF#32 ∧ F32.ge 0x4EFFFFFF#32 fOne = true ∧
      F32.units 0x4EFFFFFF#32 < ((Config.core.nMax : Int) + 1) * F32.units fOne ∧ a.nextPeriod = none ∧
      g.acc.nextVolume = some fOne ∧ g.nextDuty = none) := by decide +kernel

/-- TickFaultsRecordTheirCause: each clause about registers, on a state that keeps the invariants. -/
theorem witness_TickFaultsRecordTheirCause :
    (slow.faultValid = false ∧ slow.initDone = true ∧ slow.invSr = some 0x7F7FFFF8#32 ∧
      F32.isFinite (F32.add slow.tri.phase 0x7F7FFFF8#32) = false ∧
      slow.noise.acc.period = some 0x37BE37C6#32 ∧ F32.isFinite (F32.add slow.noise.acc.phase 0x7F7FFFF8#32) = true ∧
      ((Config.core.nMax : Int) + 1) * F32.units 0x37BE37C6#32 ≤
        F32.units (F32.add slow.noise.acc.phase 0x7F7FFFF8#32)) ∧
    (init44k.crosses isr44 .p1 = true ∧ init44k.p1.acc.nextPeriod = none ∧ init44k.p1.acc.period = some isr44 ∧
      F32.isFinite (F32.add init44k.p1.acc.phase isr44) = true ∧
      F32.units (F32.add init44k.p1.acc.phase isr44) < ((Config.core.nMax : Int) + 1) * F32.units isr44) ∧
    (stalled.dsmp.queue.length = 1 ∧ F32.isFinite (stalled.dsmp.phaseAfter isr44 0) = true ∧
      (∀ j ≤ 1, stalled.dsmp.exceeds isr44 j = true) ∧
      stalled.dsmp.phaseAfter isr44 2 = stalled.dsmp.phaseAfter isr44 1 ∧ moderate stalled.dsmp.cur.value = true ∧
      stalled.dsmp.queue.all (fun e => moderate e.value) = true) ∧
    (F32.isFinite (unvoiced.dsmp.phaseAfter isr44 0) = true ∧ unvoiced.dsmp.exceeds isr44 0 = true ∧
      unvoiced.dsmp.exceeds isr44 1 = false ∧ unvoiced.dsmp.nextVolume = none) := by decide +kernel

/-- TickFaultsRecordTheirCause: a P1 whose get fails, and six gets that succeed with a product that overflows (the sample
of R265's example, 3.0e38, twice). -/
theorem witness_TickFaultsRecordTheirCause_mix :
    pulseGet Config.core isr44 init44k.p1 = .error .unwrittenParam ∧
    (let s := after [.addsample 0x7F61B1E6#32, .get .smp, .addsample 0x7F61B1E6#32] booted
     (smpGet Config.core isr44 s.smp).toOption.map (·.2) = some 0x7F61B1E6#32 ∧
     F32.isFinite (F32.mul 0x3FC00000#32 0x7F61B1E6#32) = false ∧
     (pulseGet Config.core isr44 s.p1).isOk = true ∧ (pulseGet Config.core isr44 s.p2).isOk = true ∧
     (triGet Config.core isr44 s.tri).isOk = true ∧ (noiseGet Config.core isr44 s.noise).isOk = true ∧
     (dsmpGet Config.core isr44 s.dsmp).isOk = true) := by decide +kernel

/-- What those faults record, by R265, R115 and V96 to V98. -/
theorem test_tick_faults :
    (faultOf (.get .tri) slow, faultOf (.get .noise) slow, faultOf .mix init44k, faultOf (.get .dsmp) unvoiced) =
      ((true, 12#4, 0x44000000#32), (true, 10#4, 0x46000000#32), (true, 9#4, 0x30000000#32),
       (true, 9#4, 0x4A000000#32)) := by decide +kernel

/-- FirstTickAfterInitCommits: pending parameters written before INIT. -/
theorem witness_FirstTickAfterInitCommits :
    let s := after [.setfreq .p1 0x43DC0000#32, .setvol .p1 0x3F800000#32, .setduty .p1 0x3F000000#32] State.reset
    let t := result (.init 0x472C4400#32) s
    t.faultValid = false ∧ t.p1.acc.nextPeriod = some 0x3B14F209#32 ∧ t.p1.acc.nextVolume = some 0x3F800000#32 ∧
    t.p1.nextDuty = some 0x3F000000#32 ∧ F32.gt 0x3B14F209#32 fZero = true ∧ F32.isFinite 0x3B14F209#32 = true := by
  decide +kernel

/-- SettersDoNotTouchAnUncrossedTick: two setters, after which the state serves (the ticks: `witness_no_crossing`). -/
theorem witness_setters_reach :
    let s' := result (.setmetal true) (result (.setvol .p1 0x3F000000#32) ticked)
    ticked.Reaches (fun i => i.isSetter = true) s' ∧ s'.faultValid = false ∧ (result .mix s').faultValid = false := by
  refine ⟨?_, by decide +kernel, by decide +kernel⟩
  have first : ticked.Reaches (fun i => i.isSetter = true) (result (.setvol .p1 0x3F000000#32) ticked) :=
    .step (.setvol .p1 0x3F000000#32) .refl rfl rfl
  exact .step (.setmetal true) first rfl rfl

/-- A tick of P1, TRI or NOISE of `ticked` does not cross, and setters before it do not fault. -/
theorem witness_no_crossing : (∀ isr, ticked.invSr = some isr → ∀ ch, ticked.crosses isr ch = false) ∧
    exec .mix ticked = .next (result .mix ticked) ∧ (result .mix ticked).faultValid = false ∧
    (∀ i, i = .setvol .p1 0x3F000000#32 ∨ i = .setduty .p1 0x00000000#32 ∨ i = .setfreq .p1 0x447A0000#32 ∨
      i = .setmetal true → exec i ticked = .next (result i ticked) ∧ (result i ticked).faultValid = false) ∧
    exec (.get .p1) ticked = .next (result (.get .p1) ticked) ∧ (result (.get .p1) ticked).faultValid = false := by
  refine ⟨?_, rfl, by decide +kernel, ?_, rfl, by decide +kernel⟩
  · intro isr h ch
    rw [witness_inv_sr.2.1] at h
    cases h
    cases ch <;> decide +kernel
  · rintro i (rfl | rfl | rfl | rfl) <;> exact ⟨rfl, by decide +kernel⟩

/-- The gets that the formulas of P1, TRI, NOISE, SMP and DSMP are about, with a crossing and without. -/
theorem witness_gets_succeed :
    (∀ s ∈ [booted, ticked],
      (pulseGet Config.core isr44 s.p1).isOk = true ∧ (pulseGet Config.core isr44 s.p2).isOk = true ∧
      (triGet Config.core isr44 s.tri).isOk = true ∧ (noiseGet Config.core isr44 s.noise).isOk = true ∧
      (smpGet Config.core isr44 s.smp).isOk = true ∧ (dsmpGet Config.core isr44 s.dsmp).isOk = true) := by
  decide +kernel

/-- NOISE and SMP: an update with n = 1, n = 0 and n = 2. -/
theorem witness_counts :
    ((phasorUpdate Config.core isr44 booted.noise.acc).toOption.map (·.2),
     (phasorUpdate Config.core isr44 ticked.noise.acc).toOption.map (·.2),
     (phasorUpdate Config.core isr44
       (after [.setfreq .smp 0x47AC4400#32, .get .smp] booted).smp.acc).toOption.map (·.2)) =
      (some 1, some 0, some 2) := by decide +kernel

/-- DSMP: an update with n = 0, n = 1 and n = 2 (V41). -/
theorem witness_direct_counts :
    let s := after [.adddirect 0x373E37C6#32 0x3F000000#32, .adddirect 0x383E37C6#32 0x3E800000#32] booted
    let t := result (.get .dsmp) s
    let u := after [.get .dsmp, .get .dsmp] t
    ((dsmpUpdate Config.core isr44 s.dsmp).toOption.map (·.2.1),
     (dsmpUpdate Config.core isr44 t.dsmp).toOption.map (·.2.1),
     (dsmpUpdate Config.core isr44 u.dsmp).toOption.map (·.2.1)) = (some 0, some 2, some 1) := by decide +kernel

/-- V42 and V98 after the first iteration: the entry's value is 1.0. A value whose second partial sum overflows. -/
theorem witness_DirectLoopWithoutProgressFaults :
    let l : DirectLoop := { ph := isr44, n := 1, sum := fOne, cur := .entry ⟨0x00000001#32, fOne⟩, queue := [] }
    let huge : DirectLoop := { l with sum := fZero, cur := .entry ⟨0x00000001#32, 0x7F7FFFFF#32⟩ }
    let sum := fun (l : DirectLoop) k => (fun s => F32.add s l.cur.value)^[k] l.sum
    ([l, huge].Forall fun l => l.queue = [] ∧ F32.gt l.ph (l.cur.period isr44) = true ∧ F32.isFinite l.ph = true ∧
      F32.sub l.ph (l.cur.period isr44) = l.ph) ∧
    (∀ k < 2, F32.isFinite (sum l (k + 1)) = true) ∧ F32.isFinite (sum huge 2) = false ∧
    moderate l.sum = true ∧ moderate l.cur.value = true := by
  decide +kernel

theorem witness_TriangleRatioBelowOne : [(0x80000000#32, 0x00000001#32), (0x3F7FFFFF#32, 0x3F800000#32),
    (0x7F7FFFFE#32, 0x7F7FFFFF#32)].Forall fun row =>
    F32.isFinite row.1 = true ∧ F32.isFinite row.2 = true ∧ F32.ge row.1 fZero = true ∧ F32.lt row.1 row.2 = true := by
  decide +kernel

theorem witness_InterpolationIsRaisedCosine :
    F32.isFinite 0x7F7FFFFF#32 = true ∧ F32.isFinite 0xFF7FFFFF#32 = true := by decide

/-- R152 at t = 0.25, by hand: cos(pi/4) rounds to 0x3F3504F3, half of what it leaves of 1 is 0x3E15F61A; a linear blend
would give 0x3E800000. -/
theorem test_interp_quarter : (interp Config.core 0x00000000#32 0x3F800000#32 0x3E800000#32).toOption =
    some 0x3E15F61A#32 := by decide +kernel

/-- OutputMagnitudeWithinVolume, InvKeptByEveryStep, GetRunsOneGenerator, TickFrame: `booted` keeps the invariants and
each of its gets succeeds; so does a step. -/
theorem witness_booted_ticks : booted.Inv ∧ booted.faultValid = false ∧ booted.initDone = true ∧
    (∀ ch, exec (.get ch) booted = .next (result (.get ch) booted) ∧ (result (.get ch) booted).faultValid = false) ∧
    exec .mix booted = .next (result .mix booted) ∧ (result .mix booted).faultValid = false ∧
    step (booted.deliver [0x30000000#32]) = .next (stepped (booted.deliver [0x30000000#32])) := by
  refine ⟨witness_inv_at_booted, by decide +kernel, by decide +kernel, fun ch => ⟨rfl, ?_⟩, rfl, by decide +kernel, rfl⟩
  cases ch <;> decide +kernel

/-- Commands of every allowed kind after CLEAR, and then the ticks. -/
theorem witness_StarvationAfterClearIsSilence :
    booted.Inv ∧ exec .clear booted = .next (result .clear booted) ∧
    (result .clear booted).Reaches (fun i => ∀ x, i ≠ .addsample x)
      (result (.adddirect isr44 fOne) (result (.get .smp) (result .clear booted))) ∧
    (result .clear booted).Reaches (fun i => ∀ p x, i ≠ .adddirect p x)
      (result (.addsample fOne) (result .clear booted)) ∧
    (let u := after [.clear, .get .smp, .adddirect isr44 fOne] booted
     let v := after [.clear, .addsample fOne] booted
     (result (.get .smp) u).faultValid = false ∧ (result .mix u).faultValid = false ∧
     (result (.get .dsmp) v).faultValid = false ∧ (result .mix v).faultValid = false) := by
  refine ⟨witness_inv_at_booted, rfl, ?_, ?_, by decide +kernel⟩
  · have first : (result .clear booted).Reaches (fun i => ∀ x, i ≠ .addsample x)
        (result (.get .smp) (result .clear booted)) := .step (.get .smp) .refl (by simp) rfl
    exact .step (.adddirect isr44 fOne) first (by simp) rfl
  · exact .step (.addsample fOne) .refl (by simp) rfl

theorem witness_FilterRecurrences :
    (applyHighPass Config.core init44k.f0 fOne).isOk = true ∧ (applyLowPass Config.core init44k.f2 fOne).isOk = true := by decide +kernel

theorem witness_ClampLimits :
    F32.gt 0x3F7FBE78#32 0x3F7FBE77#32 = true ∧ F32.lt 0xBF7FBE78#32 0xBF7FBE77#32 = true ∧
    ([0x3F7FBE77#32, 0xBF7FBE77#32].Forall fun m => F32.gt m 0x3F7FBE77#32 = false ∧ F32.lt m 0xBF7FBE77#32 = false) := by decide +kernel

/-- The outputs are those of V62, MIX 1, and F0.Y and F1.Y as well. -/
theorem witness_MixIsTheWeightedFilteredSum :
    let d := booted
    ((pulseGet Config.core isr44 d.p1).toOption.map (·.2), (pulseGet Config.core isr44 d.p2).toOption.map (·.2),
      (triGet Config.core isr44 d.tri).toOption.map (·.2), (noiseGet Config.core isr44 d.noise).toOption.map (·.2),
      (smpGet Config.core isr44 d.smp).toOption.map (·.2), (dsmpGet Config.core isr44 d.dsmp).toOption.map (·.2)) =
      (some 0x3F800000#32, some 0x3F800000#32, some 0xBF7D7220#32, some 0x3F800000#32, some 0#32, some 0#32) ∧
    (let s1 := F32.add 0x3F000000#32 0x3F000000#32
     let s2 := F32.add s1 (F32.mul 0x3F000000#32 0xBF7D7220#32)
     let s3 := F32.add s2 0x3F800000#32
     F32.div s3 0x40B00000#32 = 0x3E8C19CC#32 ∧ [s1, s2, s3].Forall fun x => F32.isFinite x = true) ∧
    ((applyHighPass Config.core d.f0 0x3E8C19CC#32).toOption.map (·.2), (applyHighPass Config.core d.f1 0x3E8A53B8#32).toOption.map (·.2),
      (applyLowPass Config.core d.f2 0x3E822ABD#32).toOption.map (·.2)) =
      (some 0x3E8A53B8#32, some 0x3E822ABD#32, some 0x3E2D66B9#32) := by decide +kernel

theorem witness_SettersClearAndInitAreIdempotent :
    exec (.setvol .p1 0x40000000#32) State.reset = .next (result (.setvol .p1 0x40000000#32) State.reset) ∧
    exec .clear booted = .next (result .clear booted) := ⟨rfl, rfl⟩

/-- Every channel of `booted` is tickable: P1 to NOISE and SMP at a crossing, DSMP without one. -/
theorem witness_TicksComplete : booted.Inv ∧ booted.Moderate ∧ booted.faultValid = false ∧ booted.initDone = true ∧
    booted.invSr = some isr44 ∧ (∀ ch, booted.Tickable isr44 ch) ∧
    (booted.crosses isr44 .p1 = true ∧ booted.crosses isr44 .p2 = true ∧ booted.crosses isr44 .tri = true ∧
      booted.crosses isr44 .noise = true ∧ booted.crosses isr44 .smp = true) := by
  refine ⟨witness_inv_at_booted, witness_moderate, by decide +kernel, by decide +kernel, by decide +kernel, ?_,
    by decide +kernel⟩
  have period : ∀ a ∈ [booted.p1.acc, booted.p2.acc, booted.tri, booted.noise.acc, booted.smp.acc],
      a.period = some isr44 ∧ F32.isFinite (F32.add a.phase isr44) = true ∧
      F32.units (F32.add a.phase isr44) < ((1 : Nat) + 1 : Int) * F32.units isr44 := by decide +kernel
  have count : ∀ limit, 1 ≤ limit → ∀ a ∈ [booted.p1.acc, booted.p2.acc, booted.tri, booted.noise.acc, booted.smp.acc],
      a.CountWithin isr44 limit := by
    intro limit hl a ha
    obtain ⟨h1, h2, h3⟩ := period a ha
    refine ⟨h2, fun p hp => ?_⟩
    rw [h1] at hp
    cases hp
    refine lt_of_lt_of_le h3 (Int.mul_le_mul_of_nonneg_right (by omega) (by decide +kernel))
  intro ch
  cases ch
  · exact .inr ⟨witness_booted.pending _, count _ (by decide) _ (by simp)⟩
  · exact .inr ⟨witness_booted.pending _, count _ (by decide) _ (by simp)⟩
  · exact .inr ⟨witness_booted.pending _, count _ (by decide) _ (by simp)⟩
  · exact .inr ⟨witness_booted.pending _, count _ (by decide) _ (by simp)⟩
  · exact .inr ⟨witness_booted.pending _, count _ (by decide) _ (by simp), by decide +kernel⟩
  · exact .inl (by decide +kernel)

/-- DSMP ticks that iterate once and twice (V41), on moderate samples. -/
theorem witness_TicksComplete_direct :
    (let s := after [.adddirect isr44 fOne, .get .dsmp] booted
     s.crosses isr44 .dsmp = true ∧ F32.isFinite (F32.add s.dsmp.phase isr44) = true ∧
     s.dsmp.exceeds isr44 1 = false ∧ moderate s.dsmp.cur.value = true ∧
     s.dsmp.queue.all (fun e => moderate e.value) = true) ∧
    (let s := after [.adddirect 0x373E37C6#32 0x3F000000#32, .adddirect 0x383E37C6#32 0x3E800000#32, .get .dsmp] booted
     s.dsmp.exceeds isr44 0 = true ∧ s.dsmp.exceeds isr44 1 = true ∧ s.dsmp.exceeds isr44 2 = false) := by
  decide +kernel

/-- Arithmetic: a divisor that is not zero; a tie; a sum at the overflow limit. -/
theorem witness_ArithmeticRoundsOnceToNearestEven :
    F32.isFinite 0x7F7FFFFF#32 = true ∧ F32.isFinite 0x73000000#32 = true ∧ F32.units 0x00000001#32 ≠ 0 ∧
    F32.units 0x7F7FFFFF#32 + F32.units 0x73000000#32 = 2 ^ 277 - 2 ^ 252 ∧
    F32.units 0x3F800000#32 + F32.units 0x33800000#32 = (F32.units 0x3F800000#32 + F32.units 0x3F800001#32) / 2 := by
  decide +kernel

theorem witness_CosineRoundsToNearest : F32.isFinite 0x7F7FFFFF#32 = true ∧ F32.isFinite 0x80000001#32 = true := by decide

theorem witness_StatusRegistersChangeOnlyByTheirWriters :
    (result .mix booted).noise.lfsr ≠ booted.noise.lfsr ∧ (result (.init 0x45FA0000#32) booted).invSr ≠ booted.invSr ∧
    (result (.setmetal true) booted).noise.metallic ≠ booted.noise.metallic ∧
    (result .mix State.reset).faultValid ≠ State.reset.faultValid := by decide +kernel

end Sys2Proof.Tests
end

section
/-! R12: an operation of binary32 rounds its exact result once, to nearest even (O58). -/

namespace Sys2Proof.F32

/-! ## Rounding gives a nearest F32 (R12) -/

/-- Units of the magnitude that a shift and a rounded significand add up to, the carry into the exponent included. -/
theorem magUnits_of_shift_add_significand {x : F32} {k m : Nat} (h : magBits x = k * 8388608 + m) (hm : m ≤ 16777216)
    (hk : 0 < k → 8388608 ≤ m) : magUnits x = m * 2 ^ k := by
  rw [magUnits_of_magBits h]
  rcases Nat.lt_or_ge m 8388608 with h0 | h0
  · obtain rfl : k = 0 := by omega
    simp [Nat.div_eq_of_lt h0, Nat.mod_eq_of_lt h0]
  rcases Nat.lt_or_ge m 16777216 with h1 | h1
  · rw [show (k * 8388608 + m) / 8388608 = k + 1 by omega, show (k * 8388608 + m) % 8388608 = m - 8388608 by omega,
      if_neg (by omega), show 8388608 + (m - 8388608) = m by omega, Nat.add_sub_cancel]
  · obtain rfl : m = 16777216 := by omega
    rw [show (k * 8388608 + 16777216) / 8388608 = k + 2 by omega, show (k * 8388608 + 16777216) % 8388608 = 0 by omega,
      if_neg (by omega), show k + 2 - 1 = k + 1 by omega, Nat.pow_succ]
    omega

/-- A magnitude of at least 24 + k bits has its low k bits 0. -/
theorem two_pow_dvd_magUnits {x : F32} {k : Nat} (h : 2 ^ (k + 23) ≤ magUnits x) : 2 ^ k ∣ magUnits x := by
  unfold magUnits at *
  have hf : magBits x % 8388608 < 8388608 := Nat.mod_lt _ (by decide)
  generalize magBits x % 8388608 = f at *
  generalize magBits x / 8388608 = e at *
  have hp : 8388608 ≤ 2 ^ (k + 23) := Nat.pow_le_pow_right (n := 2) (i := 23) (by decide) (by omega)
  split at h
  · omega
  · rename_i he
    rw [if_neg he]
    have hlt : (8388608 + f) * 2 ^ (e - 1) < 2 ^ (e - 1 + 24) := by
      rw [Nat.pow_add, Nat.mul_comm]
      exact Nat.mul_lt_mul_of_pos_left (show 8388608 + f < 2 ^ 24 by omega) (Nat.two_pow_pos _)
    have := (Nat.pow_lt_pow_iff_right (a := 2) (by decide)).mp (h.trans_lt hlt)
    exact Dvd.dvd.mul_left (Nat.pow_dvd_pow 2 (by omega)) _

/-- The rounded significand is within half a step of the quotient, and even where it is exactly half a step off. -/
theorem abs_roundQuotient_sub_le (num : Nat) {den : Nat} (k : Nat) (hd : 0 < den) :
    |(roundQuotient num den k * 2 ^ k : ℚ) - num / den| ≤ 2 ^ k / 2 ∧
    (|(roundQuotient num den k * 2 ^ k : ℚ) - num / den| = 2 ^ k / 2 → roundQuotient num den k % 2 = 0) := by
  obtain ⟨hi, lo, hiTie, loTie⟩ := roundQuotient_bounds num k hd
  generalize roundQuotient num den k = m at *
  have hd' : (0 : ℚ) < den := by exact_mod_cast hd
  have hq : (num : ℚ) = num / den * den := by field_simp
  generalize (num / den : ℚ) = q at *
  rw [← Nat.cast_le (α := ℚ)] at hi lo
  rw [← Nat.cast_inj (R := ℚ)] at hiTie loTie
  push_cast [hq] at hi lo hiTie loTie
  constructor
  · rw [abs_le]
    constructor <;> refine le_of_mul_le_mul_right ?_ hd' <;> linarith
  · intro h
    rcases (abs_eq (by positivity)).mp h with h | h
    · exact loTie (by linear_combination (2 * (den : ℚ)) * h)
    · exact hiTie (by linear_combination (-2 * (den : ℚ)) * h)

/-- Of the multiples of `s`, one within `s / 2` of `q` is a nearest. -/
theorem half_step_le_abs_sub {s q : ℚ} {m j : Nat} (hs : 0 < s) (h : |m * s - q| ≤ s / 2) (hne : j ≠ m) :
    s / 2 ≤ |j * s - q| := by
  have hstep : s ≤ |j * s - m * s| := by
    rw [← sub_mul, abs_mul, abs_of_pos hs]
    refine le_mul_of_one_le_left hs.le ?_
    have : (1 : ℤ) ≤ |(j : ℤ) - m| := Int.one_le_abs (by omega)
    exact_mod_cast this
  have := abs_sub_le (j * s) q (m * s)
  rw [abs_sub_comm q] at this
  linarith

/-- A positive shift leaves a quotient of 24 bits at least. -/
theorem two_pow_roundShift_le {num den : Nat} (h : 0 < roundShift num den) :
    2 ^ (roundShift num den + 23) ≤ num / den := by
  unfold roundShift at *
  rw [Nat.sub_add_cancel (by omega)]
  exact Nat.log2_self_le (fun h0 => by simp [h0] at h)

theorem magBits_of_roundMag {num den : Nat} {r : F32} (hr : magBits r = roundMag num den)
    (hfin : roundMag num den < infMag) :
    magBits r = roundShift num den * 8388608 + roundQuotient num den (roundShift num den) := by
  unfold roundMag at hr hfin
  rw [hr, min_eq_left ((min_lt_iff.mp hfin).resolve_right (Nat.lt_irrefl _)).le]

/-- A finite rounding has the units of its significand and shift. -/
theorem magUnits_of_roundMag {num den : Nat} (hd : 0 < den) {r : F32} (hr : magBits r = roundMag num den)
    (hfin : roundMag num den < infMag) :
    magUnits r = roundQuotient num den (roundShift num den) * 2 ^ roundShift num den :=
  have ⟨hm, hk⟩ := roundQuotient_range num hd
  magUnits_of_shift_add_significand (magBits_of_roundMag hr hfin) hm hk

/-- A finite rounding is a nearest magnitude, and where another is equally near its last bit is even. -/
theorem magUnits_nearest {num den : Nat} (hd : 0 < den) {r : F32} (hr : magBits r = roundMag num den)
    (hfin : roundMag num den < infMag) (x : F32) :
    |(magUnits r : ℚ) - num / den| ≤ |(magUnits x : ℚ) - num / den| ∧
    (|(magUnits r : ℚ) - num / den| = |(magUnits x : ℚ) - num / den| → magUnits x ≠ magUnits r →
      magBits r % 2 = 0) := by
  obtain ⟨near, tie⟩ := abs_roundQuotient_sub_le num (roundShift num den) hd
  have hbits := magBits_of_roundMag hr hfin
  have hU := magUnits_of_roundMag hd hr hfin
  have heven : roundQuotient num den (roundShift num den) % 2 = 0 → magBits r % 2 = 0 := by omega
  have hlow : 0 < roundShift num den → 2 ^ (roundShift num den + 23) * den ≤ num := fun h =>
    (Nat.le_div_iff_mul_le hd).mp (two_pow_roundShift_le h)
  generalize roundQuotient num den (roundShift num den) = m at *
  generalize roundShift num den = k at *
  have hs : (0 : ℚ) < 2 ^ k := by positivity
  have hr' : (magUnits r : ℚ) = m * 2 ^ k := by exact_mod_cast hU
  rw [hr']
  by_cases hne : magUnits x = m * 2 ^ k
  · refine ⟨le_of_eq ?_, fun _ h => absurd (hne.trans hU.symm) h⟩
    rw [hne]; push_cast; rfl
  have far (j : Nat) : j ≠ m → (2 : ℚ) ^ k / 2 ≤ |(j * 2 ^ k : ℚ) - num / den| :=
    half_step_le_abs_sub hs near
  by_cases hdvd : 2 ^ k ∣ magUnits x
  · obtain ⟨j, hj⟩ := hdvd
    have hj' : (magUnits x : ℚ) = j * 2 ^ k := by rw [hj]; push_cast; ring
    have hx := far j (fun h => hne (by rw [hj, h, Nat.mul_comm]))
    rw [hj']
    exact ⟨near.trans hx, fun h _ => heven (tie (le_antisymm near (h ▸ hx)))⟩
  · have hlt : magUnits x < 2 ^ (k + 23) := Nat.lt_of_not_le fun h => hdvd (two_pow_dvd_magUnits h)
    have hkpos : 0 < k := Nat.pos_of_ne_zero fun h => hdvd (by simp [h])
    have hq : (2 : ℚ) ^ (k + 23) ≤ num / den := by
      rw [le_div_iff₀ (by exact_mod_cast hd)]
      exact_mod_cast hlow hkpos
    have hxq : (magUnits x : ℚ) < 2 ^ (k + 23) := by exact_mod_cast hlt
    have hB : |(m * 2 ^ k : ℚ) - num / den| ≤ num / den - 2 ^ (k + 23) := by
      rw [← abs_of_nonneg (sub_nonneg.mpr hq), abs_sub_comm _ ((2 : ℚ) ^ (k + 23)),
        show (2 : ℚ) ^ (k + 23) = (8388608 : Nat) * 2 ^ k by push_cast; ring]
      by_cases h : 8388608 = m
      · rw [h]
      · exact near.trans (far _ h)
    have hx : |(m * 2 ^ k : ℚ) - num / den| < |(magUnits x : ℚ) - num / den| := by
      rw [abs_sub_comm (magUnits x : ℚ)]
      exact hB.trans_lt ((sub_lt_sub_left hxq _).trans_le (le_abs_self _))
    exact ⟨hx.le, fun h => absurd h hx.ne⟩

/-- What lies below 2^128 - 2^103 rounds to a finite value, and the rest to infinity. -/
theorem roundMag_lt_infMag_iff {num den : Nat} (hd : 0 < den) :
    roundMag num den < infMag ↔ num < 33554431 * 2 ^ 252 * den := by
  constructor
  · intro h
    by_contra hn
    have hmax : infMag = roundMag (33554431 * 2 ^ 252) 1 := by decide +kernel
    have := roundMag_mono (by decide) hd (show 33554431 * 2 ^ 252 * den ≤ num * 1 by omega)
    omega
  · intro h
    refine (Nat.min_le_left _ _).trans_lt ?_
    obtain ⟨hm, -⟩ := roundQuotient_range num hd
    have hk : roundShift num den ≤ 253 := by
      have hq : num / den < 2 ^ 25 * 2 ^ 252 := by
        rw [Nat.div_lt_iff_lt_mul hd]
        exact h.trans_le (Nat.mul_le_mul_right _ (show 33554431 * 2 ^ 252 ≤ 2 ^ 25 * 2 ^ 252 by decide))
      rcases Nat.eq_zero_or_pos (num / den) with h0 | h0
      · simp [roundShift, h0]
      · have := (Nat.log2_lt (by omega)).mpr (hq.trans_eq (Nat.pow_add 2 25 252).symm)
        unfold roundShift
        omega
    rw [infMag_eq]
    rcases Nat.lt_or_ge (roundShift num den) 253 with hlt | hge
    · omega
    · have heq : roundShift num den = 253 := by omega
      obtain ⟨-, lo, -, -⟩ := roundQuotient_bounds num 253 hd
      rw [heq] at hm ⊢
      have : roundQuotient num den 253 < 16777216 := by
        by_contra hn
        have h1 : den * 2 ^ 253 * (2 * 16777216) ≤ 2 * num + den * 2 ^ 253 :=
          (Nat.mul_le_mul_left _ (by omega)).trans lo
        omega
      omega

/-- Units from the sign and the magnitude. -/
theorem units_cast (x : F32) : (units x : ℚ) = if signBit x then -(magUnits x : ℚ) else magUnits x := by
  unfold units
  split <;> simp

theorem abs_units (x : F32) : |(units x : ℚ)| = magUnits x := by
  rw [units_cast]
  split <;> simp

/-- Only 0 is equally far from two different values of one magnitude. -/
theorem eq_zero_of_opposite_equidistant {x r : F32} {z : ℚ} (hmag : magUnits x = magUnits r)
    (hne : units x ≠ units r) (h : |(units r : ℚ) - z| = |(units x : ℚ) - z|) : z = 0 := by
  have hne' : (units x : ℚ) ≠ units r := fun h => hne (by exact_mod_cast h)
  have habs : |(units x : ℚ)| = |(units r : ℚ)| := by rw [abs_units, abs_units, hmag]
  have hneg : (units x : ℚ) = -units r := (abs_eq_abs.mp habs).resolve_left hne'
  rcases abs_eq_abs.mp h with h | h
  · exact absurd (by linarith) hne'
  · linarith

/-- 2^128 - 2^103 in units: the middle between the largest finite F32 and 2^128. -/
theorem overflow_limit : (2 : ℚ) ^ 277 - 2 ^ 252 = 33554431 * 2 ^ 252 := by
  rw [show (2 : ℚ) ^ 277 = 2 ^ 25 * 2 ^ 252 from pow_add 2 25 252, ← sub_one_mul]
  norm_num

/-- `pack` of a sign and a rounded quotient is the signed quotient, rounded once. -/
theorem isRounding_pack_roundMag (neg : Bool) (num : Nat) {den : Nat} (hd : 0 < den) {z : ℚ}
    (hz : z = if neg then -(num / den : ℚ) else num / den) : IsRounding z (pack neg (roundMag num den)) := by
  have hd' : (0 : ℚ) < den := by exact_mod_cast hd
  have hq : (0 : ℚ) ≤ num / den := by positivity
  have hsign := signBit_pack neg (roundMag_lt num den)
  have hbits := magBits_pack neg (roundMag_lt num den)
  have habs : |z| = num / den := by rw [hz]; split <;> simp [abs_of_nonneg hq]
  have hlim : |z| < 2 ^ 277 - 2 ^ 252 ↔ roundMag num den < infMag := by
    rw [roundMag_lt_infMag_iff hd, habs, div_lt_iff₀ hd', overflow_limit, ← Nat.cast_lt (α := ℚ)]
    norm_num
  generalize pack neg (roundMag num den) = r at *
  constructor
  · intro h
    have hfin := hlim.mp h
    refine ⟨decide_eq_true (hbits ▸ hfin), fun x _ => ?_⟩
    obtain ⟨near, tie⟩ := magUnits_nearest hd hbits hfin x
    have hr : |(units r : ℚ) - z| = |(magUnits r : ℚ) - num / den| := by
      rw [units_cast, hsign, hz]
      cases neg
      · rfl
      · simp only [if_true, ← neg_sub', abs_neg]
    have hx : |(magUnits x : ℚ) - num / den| ≤ |(units x : ℚ) - z| := by
      rw [← abs_units, ← habs]
      exact abs_abs_sub_abs_le _ _
    rw [hr]
    refine ⟨near.trans hx, fun heq hne => ?_⟩
    by_cases hmag : magUnits x = magUnits r
    · have hz0 := eq_zero_of_opposite_equidistant hmag hne (hr.trans heq)
      have hnum : num = 0 := by simpa [hz0, hd.ne'] using habs.symm
      rw [hbits, hnum]
      simp [roundMag, roundShift, roundQuotient]
    · exact tie (near.antisymm (hx.trans heq.ge)) hmag
  · intro h
    have hinf : ¬ roundMag num den < infMag := fun hn => absurd (hlim.mpr hn) h.not_gt
    refine ⟨decide_eq_true (hbits.trans ((roundMag_le_infMag _ _).antisymm (Nat.le_of_not_lt hinf))), ?_⟩
    have hpos : (0 : ℚ) < num / den := by
      rw [← habs]
      refine lt_of_lt_of_le ?_ h
      rw [overflow_limit]
      positivity
    rw [hsign, hz]
    cases neg
    · simpa using hpos.le
    · simpa using hpos

/-! ## The operations on finite operands -/

theorem cast_two_pow_149 : ((2 ^ 149 : Nat) : ℚ) = 2 ^ 149 := by norm_num

theorem isRounding_ofRatio (neg : Bool) (num : Nat) {den : Nat} (hd : 0 < den) :
    IsRounding ((if neg then -(num / den : ℚ) else num / den) * 2 ^ 149) (ofRatio neg num den) := by
  refine isRounding_pack_roundMag neg _ hd ?_
  rw [Nat.cast_mul, cast_two_pow_149]
  split <;> ring

theorem isRounding_ofNat (k : Nat) : IsRounding (k * 2 ^ 149) (ofNat k) :=
  isRounding_pack_roundMag false _ (by decide) (by rw [Nat.cast_mul, cast_two_pow_149]; simp)

theorem isRounding_ofUnits (z : Int) : IsRounding z (ofUnits z) := by
  refine isRounding_pack_roundMag _ _ (by decide) ?_
  by_cases h : z < 0
  · simp [h, abs_of_neg]
  · simp [h, abs_of_nonneg (Int.not_lt.mp h)]

theorem isRounding_zero (neg : Bool) : IsRounding 0 (pack neg 0) :=
  isRounding_pack_roundMag neg 0 (den := 1) (by decide) (by simp)

theorem isZero_eq_false_iff {x : F32} : isZero x = false ↔ units x ≠ 0 := by
  rw [isZero, decide_eq_false_iff_not, Ne, units_eq_zero_iff]

theorem magUnits_pos {x : F32} (h : units x ≠ 0) : 0 < magUnits x :=
  Nat.pos_of_ne_zero fun h0 => h (units_eq_zero_iff.mpr (magUnits_eq_zero_iff.mp h0))

section
variable {a b : F32} (ha : isFinite a = true) (hb : isFinite b = true)
include ha hb

theorem add_of_isFinite : add a b =
    if units a + units b = 0 then pack (signBit a && signBit b) 0 else ofUnits (units a + units b) := by
  simp [add, not_isNaN_of_isFinite ha, not_isNaN_of_isFinite hb, not_isInf_of_isFinite ha,
    not_isInf_of_isFinite hb]

theorem mul_of_isFinite :
    mul a b = pack (signBit a != signBit b) (roundMag (magUnits a * magUnits b) (2 ^ 149)) := by
  simp [mul, not_isNaN_of_isFinite ha, not_isNaN_of_isFinite hb, not_isInf_of_isFinite ha,
    not_isInf_of_isFinite hb]

theorem div_of_isFinite (h0 : units b ≠ 0) :
    div a b = pack (signBit a != signBit b) (roundMag (magUnits a * 2 ^ 149) (magUnits b)) := by
  simp [div, not_isNaN_of_isFinite ha, not_isNaN_of_isFinite hb, not_isInf_of_isFinite ha,
    not_isInf_of_isFinite hb, isZero_eq_false_iff.mpr h0]

theorem fmod_of_isFinite (h0 : units b ≠ 0) :
    fmod a b = pack (signBit a) (roundMag (magUnits a % magUnits b) 1) := by
  simp [fmod, not_isNaN_of_isFinite ha, not_isNaN_of_isFinite hb, not_isInf_of_isFinite ha,
    not_isInf_of_isFinite hb, isZero_eq_false_iff.mpr h0]

end

theorem isRounding_add {a b : F32} (ha : isFinite a = true) (hb : isFinite b = true) :
    IsRounding (units a + units b) (add a b) := by
  rw [add_of_isFinite ha hb, ← Int.cast_add]
  split
  · rename_i h
    rw [h, Int.cast_zero]
    exact isRounding_zero _
  · exact isRounding_ofUnits _

@[simp] theorem signBit_neg (x : F32) : signBit (neg x) = !signBit x := by
  have h (y : F32) : signBit y = y.msb := by
    rw [BitVec.msb_eq_decide]; rfl
  rw [h, h, neg, BitVec.msb_xor]
  exact Bool.xor_true _

@[simp] theorem units_neg (x : F32) : units (neg x) = -units x := by
  have hmag : magUnits (neg x) = magUnits x := by
    rw [magUnits_of_magBits (magBits_neg x), magUnits_of_magBits (x := x) rfl]
  simp only [units, signBit_neg, hmag]
  cases signBit x <;> simp

theorem isRounding_sub {a b : F32} (ha : isFinite a = true) (hb : isFinite b = true) :
    IsRounding (units a - units b) (sub a b) := by
  have h := isRounding_add ha ((isFinite_neg b).trans hb)
  rwa [units_neg, Int.cast_neg, ← sub_eq_add_neg] at h

theorem isRounding_mul {a b : F32} (ha : isFinite a = true) (hb : isFinite b = true) :
    IsRounding (units a * units b / 2 ^ 149) (mul a b) := by
  rw [mul_of_isFinite ha hb]
  refine isRounding_pack_roundMag _ _ (by decide) ?_
  rw [units_cast, units_cast, Nat.cast_mul, cast_two_pow_149]
  cases signBit a <;> cases signBit b <;> simp [neg_div]

theorem isRounding_div {a b : F32} (ha : isFinite a = true) (hb : isFinite b = true) (h0 : units b ≠ 0) :
    IsRounding (units a * 2 ^ 149 / units b) (div a b) := by
  rw [div_of_isFinite ha hb h0]
  refine isRounding_pack_roundMag _ _ (magUnits_pos h0) ?_
  rw [units_cast, units_cast, Nat.cast_mul, cast_two_pow_149]
  cases signBit a <;> cases signBit b <;> simp [neg_div, div_neg]

/-- A whole number of units whose bits below the significand are 0 rounds to itself. -/
theorem magUnits_of_roundMag_of_dvd {c : Nat} {r : F32} (hr : magBits r = roundMag c 1) (hfin : roundMag c 1 < infMag)
    (h : 2 ^ roundShift c 1 ∣ c) : magUnits r = c := by
  rw [magUnits_of_roundMag (by decide) hr hfin]
  have hq : roundQuotient c 1 (roundShift c 1) = c / 2 ^ roundShift c 1 := by
    simp [roundQuotient, Nat.mod_eq_zero_of_dvd h, eq_comm (a := 0)]
  rw [hq, Nat.div_mul_cancel h]

/-- The remainder of two magnitudes rounds to itself: it has no bits below those of the smaller one. -/
theorem two_pow_roundShift_dvd_mod (a b : F32) (hb : 0 < magUnits b) :
    2 ^ roundShift (magUnits a % magUnits b) 1 ∣ magUnits a % magUnits b := by
  rcases Nat.eq_zero_or_pos (roundShift (magUnits a % magUnits b) 1) with h0 | h0
  · simp [h0]
  · have hle := two_pow_roundShift_le h0
    rw [Nat.div_one] at hle
    have ha := two_pow_dvd_magUnits (hle.trans (Nat.mod_le _ _))
    have hb' := two_pow_dvd_magUnits (hle.trans (Nat.mod_lt _ hb).le)
    exact (Nat.dvd_mod_iff hb').mpr ha

/-- R12: `fmod` is the exact truncated remainder. -/
theorem units_fmod {a b : F32} (ha : isFinite a = true) (hb : isFinite b = true) (h0 : units b ≠ 0) :
    units (fmod a b) = Int.tmod (units a) (units b) ∧ isFinite (fmod a b) = true := by
  have hpos := magUnits_pos h0
  have hmod : magUnits a % magUnits b ≤ magUnits b * 1 := (Nat.mod_lt _ hpos).le.trans_eq (Nat.mul_one _).symm
  have hfin : roundMag (magUnits a % magUnits b) 1 < infMag :=
    (roundMag_le_magBits hb (by decide) hmod).trans_lt (of_decide_eq_true hb)
  rw [fmod_of_isFinite ha hb h0]
  refine ⟨?_, isFinite_pack _ hfin⟩
  rw [units, signBit_pack _ (roundMag_lt _ _),
    magUnits_of_roundMag_of_dvd (magBits_pack _ (roundMag_lt _ _)) hfin (two_pow_roundShift_dvd_mod a b hpos)]
  unfold units
  cases signBit a <;> cases signBit b <;> simp [Int.tmod_eq_emod_of_nonneg]

end Sys2Proof.F32

namespace Sys2Proof

/-- Settles O58: each operation narrows its exact result once with `roundMag`, whose result is a nearest F32. -/
theorem arithmeticRoundsOnceToNearestEven : Obligations.ArithmeticRoundsOnceToNearestEven :=
  ⟨fun _ _ ha hb => ⟨F32.isRounding_add ha hb, F32.isRounding_sub ha hb, F32.isRounding_mul ha hb,
    fun h0 => ⟨F32.isRounding_div ha hb h0, F32.units_fmod ha hb h0⟩⟩, F32.isRounding_ofNat⟩

end Sys2Proof
end

section
/-! NUM_FMT of this core: a rounding is a value nearest to what was rounded, so the reference format is a valid one
(R9, R49; 93 U18). -/

namespace Sys2Proof

/-! ## Values of finite words -/

theorem F32.magUnits_le_of_isFinite {x : F32} (h : F32.isFinite x = true) : F32.magUnits x ≤ 16777215 * 2 ^ 253 := by
  have hle : F32.magBits x ≤ F32.magBits 0x7F7FFFFF#32 := Nat.le_of_lt_succ (of_decide_eq_true h)
  exact (F32.magUnits_le_iff.mpr hle).trans (by decide +kernel)

theorem F32.magUnits_le_two_pow {x : F32} (h : F32.isFinite x = true) : F32.magUnits x ≤ 2 ^ 277 :=
  (F32.magUnits_le_of_isFinite h).trans (by decide +kernel)

theorem F32.abs_units_lt_of_isFinite {x : F32} (h : F32.isFinite x = true) :
    |(F32.units x : ℚ)| < 2 ^ 277 - 2 ^ 252 := by
  rw [F32.abs_units, F32.overflow_limit]
  exact_mod_cast (F32.magUnits_le_of_isFinite h).trans_lt (by decide)

/-- A rounding of `q` is a value nearest to `q`. -/
theorem F32.IsRounding.value_nearest {q : ℚ} {r : F32} (h : F32.IsRounding (q * 2 ^ 149) r) (hq : |q| ≤ 2 ^ 127) :
    F32.isFinite r = true ∧ ∀ x, F32.isFinite x = true →
      |NumFmt.binary32.value r - q| ≤ |NumFmt.binary32.value x - q| := by
  have hz : |q * 2 ^ 149| < 2 ^ 277 - 2 ^ 252 := by
    rw [abs_mul, abs_of_pos (by positivity : (0 : ℚ) < 2 ^ 149)]
    calc |q| * 2 ^ 149 ≤ 2 ^ 127 * 2 ^ 149 := mul_le_mul_of_nonneg_right hq (by positivity)
      _ < 2 ^ 277 - 2 ^ 252 := by
        rw [F32.overflow_limit]
        norm_num
  obtain ⟨hfin, hnear⟩ := h.1 hz
  have hdiv (y : F32) : |NumFmt.binary32.value y - q| = |(F32.units y : ℚ) - q * 2 ^ 149| / 2 ^ 149 := by
    have hpos : (0 : ℚ) < 2 ^ 149 := by positivity
    rw [show NumFmt.binary32.value y - q = ((F32.units y : ℚ) - q * 2 ^ 149) / 2 ^ 149 by
      rw [sub_div, mul_div_cancel_right₀ _ hpos.ne']; rfl, abs_div, abs_of_pos hpos]
  refine ⟨hfin, fun x hx => ?_⟩
  rw [hdiv, hdiv]
  exact div_le_div_of_nonneg_right (hnear x hx).1 (by positivity)

/-- A rounding of a value that a finite word has is that value. -/
theorem F32.IsRounding.isValue {q : ℚ} {r : F32} (h : F32.IsRounding (q * 2 ^ 149) r)
    (hex : ∃ x, NumFmt.binary32.IsValue q x) : NumFmt.binary32.IsValue q r := by
  obtain ⟨x, hx, hxq⟩ := hex
  have hux : (F32.units x : ℚ) = q * 2 ^ 149 := (div_eq_iff (by positivity)).mp hxq
  obtain ⟨hfin, hnear⟩ := h.1 (hux ▸ F32.abs_units_lt_of_isFinite hx)
  have h0 := (hnear x hx).1
  rw [hux, sub_self, abs_zero, abs_nonpos_iff, sub_eq_zero] at h0
  exact ⟨hfin, (div_eq_iff (by positivity)).mpr h0⟩

/-- A nearest of two numbers is a nearest of each number between them. -/
theorem abs_sub_le_of_between {v w a b c : ℝ} (ha : |v - a| ≤ |w - a|) (hb : |v - b| ≤ |w - b|) (hac : a ≤ c)
    (hcb : c ≤ b) : |v - c| ≤ |w - c| := by
  rw [← sq_le_sq] at *
  rcases eq_or_lt_of_le (hac.trans hcb) with h | h
  · obtain rfl : a = c := by linarith
    exact ha
  · have hconv : (b - a) * ((w - c) ^ 2 - (v - c) ^ 2) =
        (b - c) * ((w - a) ^ 2 - (v - a) ^ 2) + (c - a) * ((w - b) ^ 2 - (v - b) ^ 2) := by ring
    have hpos : 0 ≤ (b - a) * ((w - c) ^ 2 - (v - c) ^ 2) := by
      rw [hconv]
      exact add_nonneg (mul_nonneg (by linarith) (by linarith)) (mul_nonneg (by linarith) (by linarith))
    exact sub_nonneg.mp (nonneg_of_mul_nonneg_right hpos (by linarith))

/-! ## The reference number format (R9, R49; 93 U18) -/

theorem binary32_lt_iff {x y : F32} (hx : F32.isFinite x = true) (hy : F32.isFinite y = true) :
    F32.lt x y = true ↔ NumFmt.binary32.value x < NumFmt.binary32.value y := by
  change _ ↔ (F32.units x : ℚ) / 2 ^ 149 < F32.units y / 2 ^ 149
  rw [div_lt_div_iff_of_pos_right (by positivity), Int.cast_lt]
  simp [F32.lt, F32.not_isNaN_of_isFinite hx, F32.not_isNaN_of_isFinite hy]

theorem binary32_le_iff {x y : F32} (hx : F32.isFinite x = true) (hy : F32.isFinite y = true) :
    F32.le x y = true ↔ NumFmt.binary32.value x ≤ NumFmt.binary32.value y := by
  change _ ↔ (F32.units x : ℚ) / 2 ^ 149 ≤ F32.units y / 2 ^ 149
  rw [div_le_div_iff_of_pos_right (by positivity), Int.cast_le]
  simp [F32.le, F32.not_isNaN_of_isFinite hx, F32.not_isNaN_of_isFinite hy]

theorem binary32_exact {x y : F32} (hx : F32.isFinite x = true) (hy : F32.isFinite y = true) :
    let f := NumFmt.binary32
    ((∃ r, f.IsValue (f.value x + f.value y) r) → f.IsValue (f.value x + f.value y) (f.add x y)) ∧
    ((∃ r, f.IsValue (f.value x - f.value y) r) → f.IsValue (f.value x - f.value y) (f.sub x y)) ∧
    ((∃ r, f.IsValue (f.value x * f.value y) r) → f.IsValue (f.value x * f.value y) (f.mul x y)) ∧
    (f.value y ≠ 0 →
      (∃ r, f.IsValue (f.value x / f.value y) r) → f.IsValue (f.value x / f.value y) (f.div x y)) := by
  have hv (z : F32) : NumFmt.binary32.value z = F32.units z / 2 ^ 149 := rfl
  simp only [hv]
  refine ⟨F32.IsRounding.isValue ?_, F32.IsRounding.isValue ?_, F32.IsRounding.isValue ?_,
    fun h0 => F32.IsRounding.isValue ?_⟩
  · rw [← add_div, div_mul_cancel₀ _ (by positivity)]
    exact F32.isRounding_add hx hy
  · rw [← sub_div, div_mul_cancel₀ _ (by positivity)]
    exact F32.isRounding_sub hx hy
  · have h := F32.isRounding_mul hx hy
    rwa [show (F32.units x / 2 ^ 149 * (F32.units y / 2 ^ 149) * 2 ^ 149 : ℚ) = F32.units x * F32.units y / 2 ^ 149 by
      field_simp]
  · have hy0 : F32.units y ≠ 0 := fun h => h0 (by simp [h])
    have h := F32.isRounding_div hx hy hy0
    rwa [show (F32.units x / 2 ^ 149 / (F32.units y / 2 ^ 149) * 2 ^ 149 : ℚ) = F32.units x * 2 ^ 149 / F32.units y by
      field_simp]

/-- The value nearest to a decimal (R12). -/
theorem ofRatio_nearest (r : Ratio) (hd : 0 < r.den) (hq : |r.toRat| ≤ 2 ^ 127) :
    ∀ x, F32.isFinite x = true →
      |NumFmt.binary32.value (NumFmt.binary32.nearest r) - r.toRat| ≤ |NumFmt.binary32.value x - r.toRat| := by
  have h := F32.isRounding_ofRatio r.neg r.num hd
  have hr : (if r.neg then -(r.num / r.den : ℚ) else r.num / r.den) = r.toRat := by
    unfold Ratio.toRat
    split <;> ring
  rw [hr] at h
  exact (h.value_nearest hq).2

/-- PI is a value nearest to the real number: it is nearest to a decimal below it and to one above it. -/
theorem piF32_nearest {x : F32} (hx : F32.isFinite x = true) :
    |(NumFmt.binary32.value piF32 : ℝ) - Real.pi| ≤ |(NumFmt.binary32.value x : ℝ) - Real.pi| := by
  have hlo := ofRatio_nearest ⟨false, 314159265358979323846, 10 ^ 20⟩ (by decide) (by norm_num [Ratio.toRat]) x hx
  have hhi := ofRatio_nearest ⟨false, 314159265358979323847, 10 ^ 20⟩ (by decide) (by norm_num [Ratio.toRat]) x hx
  rw [show NumFmt.binary32.nearest ⟨false, 314159265358979323846, 10 ^ 20⟩ = piF32 by decide +kernel] at hlo
  rw [show NumFmt.binary32.nearest ⟨false, 314159265358979323847, 10 ^ 20⟩ = piF32 by decide +kernel] at hhi
  rw [← Rat.cast_le (K := ℝ)] at hlo hhi
  push_cast at hlo hhi
  refine abs_sub_le_of_between hlo hhi ?_ ?_
  · refine le_of_eq_of_le ?_ Real.pi_gt_d20.le
    norm_num [Ratio.toRat]
  · refine le_of_le_of_eq Real.pi_lt_d20.le ?_
    norm_num [Ratio.toRat]

theorem binary32_valid : NumFmt.binary32.Valid where
  zero := by
    refine ⟨by decide, ?_⟩
    change (F32.units fZero : ℚ) / 2 ^ 149 = 0
    rw [show F32.units fZero = 0 by decide, Int.cast_zero, zero_div]
  lt_iff _ _ := binary32_lt_iff
  le_iff _ _ := binary32_le_iff
  neg_value x hx := ⟨(F32.isFinite_neg x).trans hx, by
    change (F32.units (F32.neg x) : ℚ) / 2 ^ 149 = -(F32.units x / 2 ^ 149)
    rw [F32.units_neg, Int.cast_neg, neg_div]⟩
  exact _ _ := binary32_exact
  literal_finite l := by
    rw [Machine.binary32_lit]
    cases l <;> decide
  literal_nearest l _ := ofRatio_nearest l.ratio (by cases l <;> decide) (by
    cases l <;> norm_num [Literal.ratio, Ratio.toRat])
  pi_nearest x hx := by
    rw [Machine.binary32_pi]
    exact piF32_nearest hx

end Sys2Proof
end

section
/-! R9: the cosine of this core is within 2^-250 of the real one before its one rounding (O59). -/

namespace Sys2Proof

/-! ## The fixed-point cosine -/

/-- A fixed-point number of `cosScale` fraction bits as a real. -/
noncomputable def fixedValue (d : Nat) : ℝ := d / 2 ^ cosScale

theorem two_pow_cosScale_pos : (0 : ℝ) < 2 ^ cosScale := by positivity

theorem two_pow_cosScale_succ : 2 ^ (cosScale + 1) = 4 * 2 ^ (cosScale - 1) := by
  rw [show cosScale + 1 = 2 + (cosScale - 1) from rfl, Nat.pow_add]

theorem fixedValue_nonneg (d : Nat) : 0 ≤ fixedValue d := by unfold fixedValue; positivity

theorem fixedValue_le_two {d : Nat} (h : d ≤ 2 ^ (cosScale + 1)) : fixedValue d ≤ 2 := by
  rw [fixedValue, div_le_iff₀ two_pow_cosScale_pos, ← pow_succ']
  exact_mod_cast h

/-- A doubling keeps `1 - cos y` at most 2. -/
theorem cosDouble_le {d : Nat} (h : d ≤ 2 ^ (cosScale + 1)) : cosDouble d ≤ 2 ^ (cosScale + 1) := by
  unfold cosDouble
  rw [two_pow_cosScale_succ] at *
  have hT : 0 < 2 ^ (cosScale - 1) := Nat.two_pow_pos _
  generalize 2 ^ (cosScale - 1) = T at *
  obtain ⟨c, hc⟩ := Nat.exists_eq_add_of_le h
  rw [hc, Nat.add_sub_cancel_left]
  refine Nat.div_le_of_le_mul ?_
  rw [← hc]
  nlinarith [sq_nonneg ((d : ℤ) - c)]

theorem cosDoubles_le (k : Nat) :
    ∀ {d : Nat}, d ≤ 2 ^ (cosScale + 1) → cosDoubles k d ≤ 2 ^ (cosScale + 1) := by
  induction k with
  | zero => exact id
  | succ k ih => exact fun h => ih (cosDouble_le h)

/-- A doubling is `2 d (2 - d)`, but for less than one step of the fixed point. -/
theorem abs_cosDouble_sub_le {d : Nat} (h : d ≤ 2 ^ (cosScale + 1)) :
    |fixedValue (cosDouble d) - 2 * fixedValue d * (2 - fixedValue d)| ≤ 1 / 2 ^ cosScale := by
  unfold fixedValue cosDouble
  rw [show (2 : ℝ) ^ cosScale = 2 * 2 ^ (cosScale - 1) from pow_succ' 2 (cosScale - 1)]
  rw [two_pow_cosScale_succ] at *
  have hT : 0 < 2 ^ (cosScale - 1) := Nat.two_pow_pos _
  have hT' : (0 : ℝ) < 2 ^ (cosScale - 1) := by positivity
  have hcast : ((2 ^ (cosScale - 1) : Nat) : ℝ) = 2 ^ (cosScale - 1) := Nat.cast_pow 2 _
  rw [← hcast] at hT' ⊢
  generalize 2 ^ (cosScale - 1) = T at *
  have hdm : (T * (d * (4 * T - d) / T : Nat) + (d * (4 * T - d) % T : Nat) : ℝ) = d * (4 * T - d) := by
    rw [← Nat.cast_mul, ← Nat.cast_add, Nat.div_add_mod]
    push_cast [h]
    rfl
  have hr : ((d * (4 * T - d) % T : Nat) : ℝ) ≤ T := by exact_mod_cast (Nat.mod_lt _ hT).le
  have hr0 : (0 : ℝ) ≤ (d * (4 * T - d) % T : Nat) := Nat.cast_nonneg _
  generalize ((d * (4 * T - d) % T : Nat) : ℝ) = r at *
  generalize ((d * (4 * T - d) / T : Nat) : ℝ) = q at *
  have herr : q / (2 * T) - 2 * (d / (2 * T)) * (2 - d / (2 * T)) = -(r / T / (2 * T)) := by
    field_simp
    linear_combination hdm
  rw [herr, abs_neg, abs_of_nonneg (by positivity)]
  exact div_le_div_of_nonneg_right ((div_le_one hT').mpr hr) (by positivity)

/-- Doubling the angle multiplies the error of `1 - cos` by 4 at most. -/
theorem abs_double_sub_le {D θ : ℝ} (h0 : 0 ≤ D) (h2 : D ≤ 2) :
    |2 * D * (2 - D) - (1 - Real.cos (2 * θ))| ≤ 4 * |D - (1 - Real.cos θ)| := by
  have hc := Real.neg_one_le_cos θ
  have hc' := Real.cos_le_one θ
  have hfactor : 2 * D * (2 - D) - (1 - Real.cos (2 * θ)) =
      2 * (1 - D + Real.cos θ) * (D - (1 - Real.cos θ)) := by
    rw [Real.cos_two_mul]; ring
  rw [hfactor, abs_mul]
  refine mul_le_mul_of_nonneg_right ?_ (abs_nonneg _)
  rw [abs_le]
  constructor <;> linarith

/-- The error after `k` doublings. -/
theorem abs_cosDoubles_sub_le (k : Nat) : ∀ {d : Nat} {θ e : ℝ}, d ≤ 2 ^ (cosScale + 1) →
    |fixedValue d - (1 - Real.cos θ)| ≤ e →
    |fixedValue (cosDoubles k d) - (1 - Real.cos (2 ^ k * θ))| ≤ 4 ^ k * (e + 1 / 2 ^ cosScale) := by
  have hstep : (0 : ℝ) < 1 / 2 ^ cosScale := by positivity
  generalize hs : (1 : ℝ) / 2 ^ cosScale = s at *
  induction k with
  | zero =>
    intro d θ e _ he
    simp only [cosDoubles, pow_zero, one_mul]
    linarith
  | succ k ih =>
    intro d θ e hd he
    have h1 := abs_cosDouble_sub_le hd
    have h2 := abs_double_sub_le (θ := θ) (fixedValue_nonneg d) (fixedValue_le_two hd)
    have h3 := abs_sub_le (fixedValue (cosDouble d)) (2 * fixedValue d * (2 - fixedValue d)) (1 - Real.cos (2 * θ))
    have := ih (cosDouble_le hd) (e := 4 * e + s) (h3.trans (by linarith))
    rw [show (2 : ℝ) ^ (k + 1) * θ = 2 ^ k * (2 * θ) by ring]
    refine this.trans ?_
    rw [pow_succ, mul_assoc]
    exact mul_le_mul_of_nonneg_left (by linarith) (by positivity)

theorem sq_le_two_pow {n b : Nat} (h : n ≤ 2 ^ b) (hb : b + b ≤ cosScale + 1) : n * n ≤ 2 ^ (cosScale + 1) :=
  calc n * n ≤ 2 ^ b * 2 ^ b := Nat.mul_le_mul h h
    _ = 2 ^ (b + b) := (Nat.pow_add 2 b b).symm
    _ ≤ 2 ^ (cosScale + 1) := Nat.pow_le_pow_right (by decide) hb

/-- On the angle halved 512 times, `y^2/2` is `1 - cos y` but for `y^4`. -/
theorem abs_fixedValue_sq_sub_le {n : Nat} (h : n ≤ 2 ^ 277) :
    |fixedValue (n * n) - (1 - Real.cos (n / 2 ^ 661))| ≤ 1 / 2 ^ cosScale := by
  have hpow : (2 : ℝ) ^ cosScale = 2 * 2 ^ 661 * 2 ^ 661 := by
    rw [← pow_succ', ← pow_add]; rfl
  have hy : |(n / 2 ^ 661 : ℝ)| ≤ 1 / 2 ^ 384 := by
    rw [abs_of_nonneg (by positivity), div_le_div_iff₀ (by positivity) (by positivity), one_mul,
      show (2 : ℝ) ^ 661 = 2 ^ 277 * 2 ^ 384 by rw [← pow_add]]
    exact mul_le_mul_of_nonneg_right (by exact_mod_cast h) (by positivity)
  have hsq : fixedValue (n * n) = (n / 2 ^ 661 : ℝ) ^ 2 / 2 := by
    rw [fixedValue, hpow, Nat.cast_mul]
    field_simp
  generalize (n / 2 ^ 661 : ℝ) = y at *
  have hone : (1 : ℝ) / 2 ^ 384 ≤ 1 := (div_le_one (by positivity)).mpr (one_le_pow₀ (by norm_num))
  calc |fixedValue (n * n) - (1 - Real.cos y)| = |Real.cos y - (1 - y ^ 2 / 2)| := by rw [hsq]; ring_nf
    _ ≤ |y| ^ 4 * (5 / 96) := Real.cos_bound (hy.trans hone)
    _ ≤ |y| ^ 4 * 1 := mul_le_mul_of_nonneg_left (by norm_num) (by positivity)
    _ ≤ (1 / 2 ^ 384) ^ 4 := by rw [mul_one]; exact pow_le_pow_left₀ (abs_nonneg _) hy 4
    _ = 1 / 2 ^ 1536 := by rw [div_pow, one_pow, ← pow_mul]
    _ ≤ 1 / 2 ^ cosScale := one_div_le_one_div_of_le (by positivity) (pow_le_pow_right₀ (by norm_num) (by decide))

theorem cosFixed_cast (n : Nat) : (cosFixed n : ℝ) / 2 ^ cosScale = 1 - fixedValue (oneMinusCos n) := by
  rw [cosFixed, fixedValue]
  push_cast
  rw [sub_div, div_self two_pow_cosScale_pos.ne']

/-- The fixed-point cosine lies within 2^-250 of the real one (log 6). -/
theorem abs_cosFixed_sub_cos_le {n : Nat} (h : n ≤ 2 ^ 277) :
    |(cosFixed n : ℝ) / 2 ^ cosScale - Real.cos (n / 2 ^ 149)| ≤ 1 / 2 ^ 250 := by
  have herr := abs_cosDoubles_sub_le 512 (sq_le_two_pow h (by decide)) (abs_fixedValue_sq_sub_le h)
  have hangle : (2 : ℝ) ^ 512 * (n / 2 ^ 661) = n / 2 ^ 149 := by
    rw [show (2 : ℝ) ^ 661 = 2 ^ 512 * 2 ^ 149 by rw [← pow_add]]
    field_simp
  rw [hangle] at herr
  rw [cosFixed_cast, show ∀ a b : ℝ, 1 - a - b = -(a - (1 - b)) by intros; ring, abs_neg]
  refine herr.trans (le_of_eq_of_le ?_ (one_div_le_one_div_of_le (by positivity)
    (pow_le_pow_right₀ (by norm_num) (show 250 ≤ 298 by decide))))
  rw [show (2 : ℝ) ^ cosScale = 4 ^ 512 * (2 * 2 ^ 298) by
    rw [show (4 : ℝ) = 2 ^ 2 by norm_num, ← pow_mul, ← pow_succ', ← pow_add]; rfl]
  field_simp
  norm_num

/-- The fixed-point cosine lies in [-1, 1]. -/
theorem natAbs_cosFixed_le {n : Nat} (h : n ≤ 2 ^ 277) : (cosFixed n).natAbs ≤ 2 ^ cosScale := by
  have hle : oneMinusCos n ≤ 2 ^ cosScale * 2 :=
    (cosDoubles_le 512 (sq_le_two_pow h (by decide))).trans_eq (pow_succ 2 cosScale)
  have habs (S d : Nat) (hd : d ≤ S * 2) : ((S : Int) - d).natAbs ≤ S := by omega
  exact habs _ _ hle

/-! ## COS is the fixed-point cosine, rounded once (R9) -/

theorem isRounding_cosF32 {x : F32} (h : F32.isFinite x = true) :
    F32.IsRounding ((cosFixed (F32.magUnits x) : ℚ) / 2 ^ cosScale * 2 ^ 149) (cosF32 x) := by
  have hr := F32.isRounding_ofRatio (decide (cosFixed (F32.magUnits x) < 0)) (cosFixed (F32.magUnits x)).natAbs
    (Nat.two_pow_pos cosScale)
  rw [cosF32, if_pos h]
  convert hr using 2
  generalize cosFixed (F32.magUnits x) = z
  rw [Nat.cast_pow, Nat.cast_ofNat, Nat.cast_natAbs]
  by_cases hz : z < 0
  · simp [hz, abs_of_neg, neg_div]
  · simp [hz, abs_of_nonneg (Int.not_lt.mp hz)]

theorem abs_cosFixed_div_le_one {n : Nat} (h : n ≤ 2 ^ 277) : |(cosFixed n : ℚ) / 2 ^ cosScale| ≤ 1 := by
  rw [abs_div, abs_of_pos (by positivity : (0 : ℚ) < 2 ^ cosScale), div_le_one (by positivity), ← Int.cast_abs,
    ← Nat.cast_natAbs]
  exact_mod_cast natAbs_cosFixed_le h

theorem cosF32_nearest {x : F32} (h : F32.isFinite x = true) :
    F32.isFinite (cosF32 x) = true ∧ ∀ r, F32.isFinite r = true →
      |NumFmt.binary32.value (cosF32 x) - (cosFixed (F32.magUnits x) : ℚ) / 2 ^ cosScale| ≤
        |NumFmt.binary32.value r - (cosFixed (F32.magUnits x) : ℚ) / 2 ^ cosScale| :=
  (isRounding_cosF32 h).value_nearest ((abs_cosFixed_div_le_one (F32.magUnits_le_two_pow h)).trans (by norm_num))

/-- The cosine does not see the sign. -/
theorem cos_units (x : F32) : Real.cos (F32.units x / 2 ^ 149) = Real.cos (F32.magUnits x / 2 ^ 149) := by
  rw [← Real.cos_abs, abs_div, abs_of_pos (by positivity : (0 : ℝ) < 2 ^ 149)]
  congr 2
  exact_mod_cast F32.abs_units x

/-- No finite F32 lies nearer to the cosine than COS by more than twice the error of the fixed point. -/
theorem abs_cosF32_sub_cos_le {x r : F32} (hx : F32.isFinite x = true) (hr : F32.isFinite r = true) :
    |(F32.units (cosF32 x) : ℝ) / 2 ^ 149 - Real.cos (F32.units x / 2 ^ 149)| ≤
      |(F32.units r : ℝ) / 2 ^ 149 - Real.cos (F32.units x / 2 ^ 149)| + 1 / 2 ^ 249 := by
  have hcast (y : F32) : (F32.units y : ℝ) / 2 ^ 149 = (NumFmt.binary32.value y : ℝ) := by
    change _ = (((F32.units y : ℚ) / 2 ^ 149 : ℚ) : ℝ)
    push_cast
    rfl
  have hnear : |(NumFmt.binary32.value (cosF32 x) : ℝ) - (cosFixed (F32.magUnits x) : ℝ) / 2 ^ cosScale| ≤
      |(NumFmt.binary32.value r : ℝ) - (cosFixed (F32.magUnits x) : ℝ) / 2 ^ cosScale| := by
    exact_mod_cast (cosF32_nearest hx).2 r hr
  have herr := abs_cosFixed_sub_cos_le (F32.magUnits_le_two_pow hx)
  rw [cos_units, hcast, hcast]
  generalize (cosFixed (F32.magUnits x) : ℝ) / 2 ^ cosScale = c at *
  generalize Real.cos (F32.magUnits x / 2 ^ 149) = y at *
  have h1 := abs_sub_le (NumFmt.binary32.value (cosF32 x) : ℝ) c y
  have h2 := abs_sub_le (NumFmt.binary32.value r : ℝ) y c
  rw [abs_sub_comm y c] at h2
  have h3 : (1 : ℝ) / 2 ^ 249 = 1 / 2 ^ 250 + 1 / 2 ^ 250 := by norm_num
  linarith

/-- A finite word of magnitude 1.0 at most lies in [-1, 1]. -/
theorem le_fOne_of_magBits_le {r : F32} (h : F32.magBits r ≤ F32.magBits fOne) :
    F32.le (F32.neg fOne) r = true ∧ F32.le r fOne = true := by
  have hfin : F32.isFinite r = true := decide_eq_true (h.trans_lt (by decide))
  have hmag : F32.magUnits r ≤ 2 ^ 149 := (F32.magUnits_le_iff.mpr h).trans (by decide +kernel)
  have hone : F32.units fOne = 2 ^ 149 := by decide +kernel
  have hnan : F32.isNaN fOne = false ∧ F32.isNaN (F32.neg fOne) = false := by decide +kernel
  simp only [F32.le, hnan, F32.not_isNaN_of_isFinite hfin, Bool.not_false, Bool.true_and, decide_eq_true_eq]
  rw [F32.units_neg, hone, F32.units]
  split <;> omega

theorem cosF32_bounded {x : F32} (h : F32.isFinite x = true) :
    F32.le (F32.neg fOne) (cosF32 x) = true ∧ F32.le (cosF32 x) fOne = true := by
  apply le_fOne_of_magBits_le
  rw [cosF32, if_pos h, F32.ofRatio, F32.magBits_pack _ (F32.roundMag_lt _ _)]
  refine F32.roundMag_le_magBits (by decide) (Nat.two_pow_pos cosScale) ?_
  rw [show F32.magUnits fOne = 2 ^ 149 by decide +kernel, Nat.mul_comm]
  exact Nat.mul_le_mul_left _ (natAbs_cosFixed_le (F32.magUnits_le_two_pow h))

theorem config_core_valid : Config.core.Valid where
  num := binary32_valid
  cos_bounded x hx := by
    simp only [Machine.core_num, Machine.core_cos, Machine.binary32_one]
    exact ⟨(cosF32_nearest hx).1, cosF32_bounded hx⟩
  seed_nonzero := by decide
  limit_ge_cap _ h := nomatch h

/-- Settles O59: 512 doublings carry an error below 2^-298, so the one rounding is of a number within 2^-250 of the
cosine. -/
theorem cosineRoundsToNearest : Obligations.CosineRoundsToNearest :=
  ⟨fun _ _ hx hr => abs_cosF32_sub_cos_le hx hr, config_core_valid, by decide +kernel, by decide +kernel⟩

end Sys2Proof
end

section
/-! Ranges of binary32 results: comparisons of finite words as comparisons of their units, and roundings that stay on one
side of a finite word. -/

namespace Sys2Proof.F32

/-! ## Comparisons of finite words (R12) -/

theorem le_iff_units {x y : F32} (hx : isFinite x = true) (hy : isFinite y = true) :
    le x y = true ↔ units x ≤ units y := by
  simp [le, not_isNaN_of_isFinite hx, not_isNaN_of_isFinite hy]

theorem lt_iff_units {x y : F32} (hx : isFinite x = true) (hy : isFinite y = true) :
    lt x y = true ↔ units x < units y := by
  simp [lt, not_isNaN_of_isFinite hx, not_isNaN_of_isFinite hy]

theorem units_le_of_le {x y : F32} (h : le x y = true) : units x ≤ units y := by
  simp only [le, Bool.and_eq_true, decide_eq_true_eq] at h
  exact h.2

theorem natAbs_units (x : F32) : (units x).natAbs = magUnits x := by
  unfold units
  split <;> simp

/-- What lies between two finite words is finite. -/
theorem isFinite_of_le_of_le {lo x hi : F32} (hlo : isFinite lo = true) (hhi : isFinite hi = true)
    (h : le lo x = true) (h' : le x hi = true) : isFinite x = true := by
  by_contra hn
  have hx : infMag ≤ magBits x := by simpa [isFinite] using hn
  have h1 := magUnits_lt_of_magBits_lt ((of_decide_eq_true hlo).trans_le hx)
  have h2 := magUnits_lt_of_magBits_lt ((of_decide_eq_true hhi).trans_le hx)
  have h3 := units_le_of_le h
  have h4 := units_le_of_le h'
  have := natAbs_units lo
  have := natAbs_units x
  have := natAbs_units hi
  omega

/-! ## Rounding against a finite word -/

section
variable {z : ℚ} {r x : F32} (h : IsRounding z r)
include h

theorem IsRounding.abs_lt (hr : isFinite r = true) : |z| < 2 ^ 277 - 2 ^ 252 := by
  by_contra hn
  have hinf := (h.2 (not_lt.mp hn)).1
  rw [not_isInf_of_isFinite hr] at hinf
  exact Bool.false_ne_true hinf

theorem IsRounding.isFinite_of_not_isInf (hr : isInf r = false) : isFinite r = true := by
  by_contra hn
  have hinf : ¬ |z| < 2 ^ 277 - 2 ^ 252 := fun hz => hn (h.1 hz).1
  rw [(h.2 (not_lt.mp hinf)).1] at hr
  exact Bool.false_ne_true hr.symm

/-- A number of at most a finite word rounds to at most that word. -/
theorem IsRounding.units_le (hr : isFinite r = true) (hx : isFinite x = true) (hz : z ≤ units x) :
    units r ≤ units x := by
  obtain ⟨near, -⟩ := (h.1 (h.abs_lt hr)).2 x hx
  rw [abs_of_nonneg (sub_nonneg.mpr hz)] at near
  have := (le_abs_self _).trans near
  exact_mod_cast (sub_le_sub_iff_right z).mp this

/-- A number of at least a finite word rounds to at least that word. -/
theorem IsRounding.le_units (hr : isFinite r = true) (hx : isFinite x = true) (hz : units x ≤ z) :
    units x ≤ units r := by
  obtain ⟨near, -⟩ := (h.1 (h.abs_lt hr)).2 x hx
  rw [abs_sub_comm _ z, abs_sub_comm _ z, abs_of_nonneg (sub_nonneg.mpr hz)] at near
  have := (le_abs_self _).trans near
  exact_mod_cast (sub_le_sub_iff_left z).mp this

end

/-- A quotient by zero is not finite. -/
theorem units_ne_zero_of_isFinite_div {a b : F32} (hb : isFinite b = true) (h : isFinite (div a b) = true) :
    units b ≠ 0 := by
  intro h0
  have hz : isZero b = true := by
    rw [isZero, decide_eq_true_eq]
    exact units_eq_zero_iff.mp h0
  have hinf : ∀ neg, isFinite (pack neg infMag) = false := by decide
  have hnan : isFinite nan = false := by decide
  refine Bool.false_ne_true (Eq.trans (Eq.symm ?_) h)
  simp only [div, not_isInf_of_isFinite hb, hz, Bool.false_eq_true, if_false, if_true]
  split
  · exact hnan
  · split
    · exact hinf _
    · split
      · exact hnan
      · exact hinf _

theorem units_ofNat_le {j k : Nat} (h : j ≤ k) : units (ofNat j) ≤ units (ofNat k) := by
  have hunits (n : Nat) : units (ofNat n) = magUnits (ofNat n) := by
    rw [units, ofNat, signBit_pack _ (roundMag_lt _ _)]
    rfl
  rw [hunits, hunits, Int.ofNat_le, magUnits_le_iff, ofNat, ofNat, magBits_pack _ (roundMag_lt _ _),
    magBits_pack _ (roundMag_lt _ _)]
  exact roundMag_mono (by decide) (by decide) (Nat.mul_le_mul_right _ (Nat.mul_le_mul_right _ h))

end Sys2Proof.F32
end

section
/-! The ranges of the invariants (R51) as facts about units, and the checked operations (R265) that stay in them. -/

namespace Sys2Proof.Machine

/-! ## Constants -/

theorem units_fZero : F32.units fZero = 0 := by decide
theorem units_fOne : F32.units fOne = 2 ^ 149 := by decide +kernel
theorem isFinite_fZero : F32.isFinite fZero = true := by decide
theorem isFinite_fOne : F32.isFinite fOne = true := by decide
theorem isFinite_directGain : F32.isFinite directGain = true := by decide

/-! ## Ranges -/

theorem nonnegFinite_iff {x : F32} : nonnegFinite x = true ↔ F32.isFinite x = true ∧ 0 ≤ F32.units x := by
  rw [nonnegFinite, Bool.and_eq_true]
  refine and_congr_right fun hx => ?_
  rw [F32.ge, F32.le_iff_units isFinite_fZero hx, units_fZero]

theorem positiveFinite_iff {x : F32} :
    positiveFinite Config.core x = true ↔ F32.isFinite x = true ∧ 0 < F32.units x := by
  rw [positiveFinite_core, Bool.and_eq_true, and_comm]
  refine and_congr_right fun hx => ?_
  rw [F32.gt, F32.lt_iff_units isFinite_fZero hx, units_fZero]

theorem nonnegFinite_of_positiveFinite {x : F32} (h : positiveFinite Config.core x = true) : nonnegFinite x = true :=
  have ⟨hfin, hpos⟩ := positiveFinite_iff.mp h
  nonnegFinite_iff.mpr ⟨hfin, hpos.le⟩

theorem pendingRange_iff {top v : F32} (htop : F32.isFinite top = true) :
    pendingRange top v = true ↔ nonnegFinite v = true ∧ F32.units v ≤ F32.units top := by
  rw [pendingRange, Bool.and_eq_true]
  constructor
  · rintro ⟨h0, hle⟩
    have hfin := F32.isFinite_of_le_of_le isFinite_fZero htop h0 hle
    exact ⟨by rw [nonnegFinite, hfin, h0]; rfl, F32.units_le_of_le hle⟩
  · rintro ⟨h0, hle⟩
    have ⟨hfin, _⟩ := nonnegFinite_iff.mp h0
    rw [nonnegFinite, hfin] at h0
    exact ⟨h0, (F32.le_iff_units hfin htop).mpr hle⟩

theorem inUnit_eq_pendingRange (x : F32) : inUnit Config.core x = pendingRange fOne x := inUnit_core x

theorem inUnit_iff {x : F32} : inUnit Config.core x = true ↔ nonnegFinite x = true ∧ F32.units x ≤ F32.units fOne := by
  rw [inUnit_eq_pendingRange, pendingRange_iff isFinite_fOne]

theorem volumeRange_fZero (top : F32) : volumeRange top fZero = true := rfl

theorem nonnegFinite_of_volumeRange {top v : F32} (htop : F32.isFinite top = true) (h : volumeRange top v = true) :
    nonnegFinite v = true := by
  rw [volumeRange, Bool.or_eq_true, Bool.and_eq_true, decide_eq_true_eq] at h
  rcases h with rfl | ⟨hlo, hhi⟩
  · rfl
  · have hpos : 0 ≤ F32.units volThreshold := by decide +kernel
    exact nonnegFinite_iff.mpr
      ⟨F32.isFinite_of_le_of_le (by decide) htop hlo hhi, hpos.trans (F32.units_le_of_le hlo)⟩

/-- What a commit makes active is +0.0 or from the threshold on (R51 item 2, R112). -/
theorem volumeRange_committedVolume {top v : F32} (htop : F32.isFinite top = true) (h : pendingRange top v = true) :
    volumeRange top (committedVolume Config.core v) = true := by
  obtain ⟨h0, hle⟩ := (pendingRange_iff htop).mp h
  obtain ⟨hfin, -⟩ := nonnegFinite_iff.mp h0
  simp only [committedVolume, core_num, binary32_lt, binary32_volThreshold]
  split
  · rfl
  · rename_i hlt
    have hthr : F32.isFinite volThreshold = true := by decide
    rw [F32.lt_iff_units hfin hthr, not_lt, ← F32.le_iff_units hthr hfin] at hlt
    rw [volumeRange, hlt, (F32.le_iff_units hfin htop).mpr hle]
    exact Bool.or_true _

/-! ## Checked operations on ranges -/

/-- A number that is not negative rounds to none that is. -/
theorem nonnegFinite_of_isRounding {z : ℚ} {r : F32} (h : F32.IsRounding z r) (hr : F32.isFinite r = true)
    (hz : 0 ≤ z) : nonnegFinite r = true := by
  refine nonnegFinite_iff.mpr ⟨hr, ?_⟩
  rw [← units_fZero]
  exact h.le_units hr isFinite_fZero (by rwa [units_fZero, Int.cast_zero])

theorem isFinite_of_numeric {r x : F32} (h : numeric Config.core r = .ok x) : F32.isFinite x = true := numeric_isFinite h

section
variable {a b x : F32}

theorem le_fadd (ha : nonnegFinite a = true) (hb : nonnegFinite b = true) (h : fadd Config.core a b = .ok x) :
    F32.units a ≤ F32.units x := by
  obtain ⟨hfin, rfl⟩ := fadd_ok.mp h
  obtain ⟨ha, -⟩ := nonnegFinite_iff.mp ha
  obtain ⟨hb, hb0⟩ := nonnegFinite_iff.mp hb
  exact (F32.isRounding_add ha hb).le_units hfin ha (le_add_of_nonneg_right (by exact_mod_cast hb0))

theorem fadd_nonneg (ha : nonnegFinite a = true) (hb : nonnegFinite b = true) (h : fadd Config.core a b = .ok x) :
    nonnegFinite x = true :=
  nonnegFinite_iff.mpr ⟨isFinite_of_numeric h, (nonnegFinite_iff.mp ha).2.trans (le_fadd ha hb h)⟩

theorem fsub_nonneg (ha : F32.isFinite a = true) (hb : F32.isFinite b = true) (hle : F32.units b ≤ F32.units a)
    (h : fsub Config.core a b = .ok x) : nonnegFinite x = true := by
  obtain ⟨hfin, rfl⟩ := fsub_ok.mp h
  exact nonnegFinite_of_isRounding (F32.isRounding_sub ha hb) hfin (sub_nonneg.mpr (by exact_mod_cast hle))

theorem fmul_nonneg (ha : nonnegFinite a = true) (hb : nonnegFinite b = true) (h : fmul Config.core a b = .ok x) :
    nonnegFinite x = true := by
  obtain ⟨hfin, rfl⟩ := fmul_ok.mp h
  obtain ⟨ha, ha0⟩ := nonnegFinite_iff.mp ha
  obtain ⟨hb, hb0⟩ := nonnegFinite_iff.mp hb
  refine nonnegFinite_of_isRounding (F32.isRounding_mul ha hb) hfin ?_
  exact div_nonneg (mul_nonneg (by exact_mod_cast ha0) (by exact_mod_cast hb0)) (by positivity)

theorem fmul_pendingRange {top : F32} (ha : nonnegFinite a = true) (hb : nonnegFinite b = true)
    (htop : F32.isFinite top = true) (hle : F32.units a * F32.units b ≤ F32.units top * 2 ^ 149)
    (h : fmul Config.core a b = .ok x) : pendingRange top x = true := by
  refine (pendingRange_iff htop).mpr ⟨fmul_nonneg ha hb h, ?_⟩
  obtain ⟨hfin, rfl⟩ := fmul_ok.mp h
  refine (F32.isRounding_mul (nonnegFinite_iff.mp ha).1 (nonnegFinite_iff.mp hb).1).units_le hfin htop ?_
  rw [div_le_iff₀ (by positivity)]
  exact_mod_cast hle

theorem units_ne_zero_of_fdiv (hb : F32.isFinite b = true) (h : fdiv Config.core a b = .ok x) : F32.units b ≠ 0 := by
  obtain ⟨hfin, rfl⟩ := fdiv_ok.mp h
  exact F32.units_ne_zero_of_isFinite_div hb hfin

theorem fdiv_nonneg (ha : nonnegFinite a = true) (hb : nonnegFinite b = true) (h : fdiv Config.core a b = .ok x) :
    nonnegFinite x = true := by
  obtain ⟨ha, ha0⟩ := nonnegFinite_iff.mp ha
  obtain ⟨hb, hb0⟩ := nonnegFinite_iff.mp hb
  have h0 := units_ne_zero_of_fdiv hb h
  obtain ⟨hfin, rfl⟩ := fdiv_ok.mp h
  refine nonnegFinite_of_isRounding (F32.isRounding_div ha hb h0) hfin ?_
  exact div_nonneg (mul_nonneg (by exact_mod_cast ha0) (by positivity)) (by exact_mod_cast hb0)

/-- A quotient of a number by one no smaller lies in [0, 1]. -/
theorem fdiv_inUnit (ha : nonnegFinite a = true) (hb : F32.isFinite b = true) (hle : F32.units a ≤ F32.units b)
    (h : fdiv Config.core a b = .ok x) : inUnit Config.core x = true := by
  obtain ⟨hafin, ha0⟩ := nonnegFinite_iff.mp ha
  have hb0 := ha0.trans hle
  have h0 := units_ne_zero_of_fdiv hb h
  refine inUnit_iff.mpr ⟨fdiv_nonneg ha (nonnegFinite_iff.mpr ⟨hb, hb0⟩) h, ?_⟩
  obtain ⟨hfin, rfl⟩ := fdiv_ok.mp h
  refine (F32.isRounding_div hafin hb h0).units_le hfin isFinite_fOne ?_
  have hpos : (0 : ℚ) < F32.units b := by exact_mod_cast lt_of_le_of_ne hb0 h0.symm
  rw [div_le_iff₀ hpos, units_fOne, mul_comm]
  push_cast
  exact mul_le_mul_of_nonneg_left (by exact_mod_cast hle) (by positivity)

end

theorem ffromNat_nonneg {k : Nat} {x : F32} (h : ffromNat Config.core k = .ok x) : nonnegFinite x = true := by
  obtain ⟨hfin, rfl⟩ := ffromNat_ok.mp h
  exact nonnegFinite_of_isRounding (F32.isRounding_ofNat k) hfin (by positivity)

/-- The reciprocal of a positive finite word is positive, and finite unless it overflows (R120, R235). -/
theorem positiveFinite_reciprocal {x : F32} (hx : positiveFinite Config.core x = true)
    (hinf : F32.isInf (F32.div fOne x) = false) : positiveFinite Config.core (F32.div fOne x) = true := by
  obtain ⟨hx, hx0⟩ := positiveFinite_iff.mp hx
  have hr := F32.isRounding_div isFinite_fOne hx hx0.ne'
  have hfin := hr.isFinite_of_not_isInf hinf
  have hone : F32.units 0x00000001#32 = 1 := by decide
  refine positiveFinite_iff.mpr ⟨hfin, ?_⟩
  refine lt_of_lt_of_le (by rw [hone]; decide) (hr.le_units (x := 0x00000001#32) hfin (by decide) ?_)
  have hle : (F32.units x : ℚ) ≤ 2 ^ 277 := by
    rw [← abs_of_pos (show (0 : ℚ) < F32.units x by exact_mod_cast hx0), F32.abs_units]
    exact_mod_cast F32.magUnits_le_two_pow hx
  rw [hone, Int.cast_one, one_le_div (by exact_mod_cast hx0), units_fOne]
  rw [Int.cast_pow, Int.cast_ofNat, ← pow_add]
  exact hle.trans (pow_le_pow_right₀ (by norm_num) (by decide))

end Sys2Proof.Machine
end

section
/-! R37: the LFSR advance is a bijection that maps 0 to 0 (O28). -/

namespace Sys2Proof.Machine

/-- Bit 14 of an advance is the feedback, every other bit the one above it (R134). -/
theorem getLsbD_lfsrAdvance (m : Bool) (r : Lfsr) {k : Nat} (hk : k < 15) :
    (lfsrAdvance m r).getLsbD k = if k = 14 then lfsrFeedback m r else r.getLsbD (k + 1) := by
  have htop : (0x4000#15).getLsbD k = decide (k = 14) := by
    revert k
    decide
  have hshift : (r >>> 1).getLsbD k = r.getLsbD (k + 1) := by
    rw [BitVec.getLsbD_ushiftRight, Nat.add_comm]
  unfold lfsrAdvance
  split
  · rename_i hf
    rw [BitVec.getLsbD_or, hshift, htop]
    by_cases h14 : k = 14 <;> simp [h14, hf]
  · rename_i hf
    rw [hshift]
    by_cases h14 : k = 14
    · subst h14
      simp [hf]
    · rw [if_neg h14]

/-- The shifted bits come back one place down, and bit 0 from the feedback and its tap. -/
theorem lfsrAdvance_injective (m : Bool) : Function.Injective (lfsrAdvance m) := by
  intro r r' h
  have hbits {k : Nat} (hk : k < 15) : (if k = 14 then lfsrFeedback m r else r.getLsbD (k + 1)) =
      if k = 14 then lfsrFeedback m r' else r'.getLsbD (k + 1) := by
    rw [← getLsbD_lfsrAdvance m r hk, ← getLsbD_lfsrAdvance m r' hk, h]
  have hupper {k : Nat} (hk : k < 14) : r.getLsbD (k + 1) = r'.getLsbD (k + 1) := by
    simpa only [hk.ne, if_false] using hbits (hk.trans (by decide))
  have hfeedback : lfsrFeedback m r = lfsrFeedback m r' := hbits (show 14 < 15 by decide)
  have hlow : r.getLsbD 0 = r'.getLsbD 0 := by
    have htap : (if m then r.getLsbD 6 else r.getLsbD 1) = if m then r'.getLsbD 6 else r'.getLsbD 1 := by
      rw [hupper (k := 5) (by decide), hupper (k := 0) (by decide)]
    unfold lfsrFeedback at hfeedback
    rw [htap] at hfeedback
    exact Bool.xor_left_inj.mp hfeedback
  refine BitVec.eq_of_getLsbD_eq fun k hk => ?_
  cases k with
  | zero => exact hlow
  | succ k => exact hupper (by omega)

@[simp] theorem lfsrAdvance_zero (m : Bool) : lfsrAdvance m 0#15 = 0#15 := by cases m <;> decide

theorem lfsrAdvance_ne_zero {m : Bool} {r : Lfsr} (hr : r ≠ 0#15) : lfsrAdvance m r ≠ 0#15 := fun h =>
  hr (lfsrAdvance_injective m (h.trans (lfsrAdvance_zero m).symm))

/-- Settles O28: every bit of the register can be read back from its advance. -/
theorem lfsrAdvanceIsInjectiveAndNeverZero : Obligations.LfsrAdvanceIsInjectiveAndNeverZero := fun m =>
  ⟨lfsrAdvance_injective m, lfsrAdvance_zero m, fun _ => lfsrAdvance_ne_zero⟩

end Sys2Proof.Machine
end

section
/-! Each generator's get keeps the invariants of its registers, and its output is finite (R51). -/

namespace Sys2Proof.Machine

variable {d : Bool} {isr o : F32} {n : Nat}

/-! ## Phase accumulator (R110 to R114) -/

theorem Phasor.Kept.withOut {a : Phasor} (ha : a.Kept d) (ho : F32.isFinite o = true) :
    ({ a with out := o } : Phasor).Kept d := { ha with out := ho }

/-- The advanced phase is below the period, or at least one period has elapsed. -/
theorem phaseStep_core {phase period ph : F32} {crossed : Option Nat} (hphase : nonnegFinite phase = true)
    (hperiod : positiveFinite Config.core period = true) (hisr : positiveFinite Config.core isr = true)
    (h : phaseStep Config.core isr phase period = .ok (ph, crossed)) :
    nonnegFinite ph = true ∧ (crossed = none → F32.lt ph period = true) ∧ crossed ≠ some 0 := by
  obtain ⟨rfl, hfin, hcross⟩ := phaseStep_ok h
  have hph := fadd_nonneg hphase (nonnegFinite_of_positiveFinite hisr) (fadd_ok.mpr ⟨hfin, rfl⟩)
  obtain ⟨hpfin, -⟩ := positiveFinite_iff.mp hperiod
  obtain ⟨hlt, rfl⟩ | ⟨hge, n, rfl, hn, -⟩ := hcross
  · exact ⟨hph, fun _ =>
      (F32.not_ge_iff_lt (F32.not_isNaN_of_isFinite hfin) (F32.not_isNaN_of_isFinite hpfin)).mp hlt, nofun⟩
  · obtain ⟨hp0, hph0, hquot⟩ := floorQuot_eq_some.mp (floorExact_ok.mp hn)
    have hunits := F32.units_le_of_le hge
    have hle : F32.magUnits period ≤ F32.magUnits (Config.core.num.add phase isr) := by
      rw [← F32.natAbs_units, ← F32.natAbs_units]
      omega
    have hpos : 0 < n := hquot ▸ Nat.div_pos hle (F32.magUnits_pos hp0.ne')
    exact ⟨hph, nofun, fun h0 => hpos.ne' (Option.some.inj h0)⟩

/-- An update with no crossing leaves the phase below the period, a crossing the remainder by the new period. -/
theorem phasorUpdate_kept {a b : Phasor} (ha : a.Kept d) (hisr : positiveFinite Config.core isr = true)
    (h : phasorUpdate Config.core isr a = .ok (b, n)) : b.Kept d := by
  obtain ⟨p, hp, hcases⟩ := phasorUpdate_ok h
  have hperiod := (Option.all_eq_true _ _).mp ha.period p hp
  obtain ⟨hs, -, rfl⟩ | ⟨hs, e, hc, hw⟩ := hcases
  · obtain ⟨hph, hlt, -⟩ := phaseStep_core ha.phase hperiod hisr hs
    exact { ha with phase := hph, wrapped := by rw [hp]; exact hlt rfl }
  · obtain ⟨hph, -, -⟩ := phaseStep_core ha.phase hperiod hisr hs
    obtain ⟨p', v, hp', hv, rfl⟩ := commitPhasor_ok hc
    obtain ⟨q, hq, -, rfl⟩ := wrapPhase_ok hw
    cases hq
    have hperiod' := (Option.all_eq_true _ _).mp ha.nextPeriod p' hp'
    have hvolume := (Option.all_eq_true _ _).mp ha.nextVolume v hv
    obtain ⟨hpfin, hpos⟩ := positiveFinite_iff.mp hperiod'
    obtain ⟨hphfin, hph0⟩ := nonnegFinite_iff.mp hph
    obtain ⟨hmod, hmodfin⟩ := F32.units_fmod hphfin hpfin hpos.ne'
    rw [Int.tmod_eq_emod_of_nonneg hph0] at hmod
    exact
      { ha with
        phase := nonnegFinite_iff.mpr ⟨hmodfin, hmod ▸ Int.emod_nonneg _ hpos.ne'⟩
        period := hperiod'
        volume := volumeRange_committedVolume isFinite_fOne hvolume
        wrapped := (F32.lt_iff_units hmodfin hpfin).mpr (hmod ▸ Int.emod_lt_of_pos _ hpos)
        written := fun _ => rfl }

/-- UPDATE writes PHASE, PERIOD and VOLUME alone (R110 to R112). -/
theorem phasorUpdate_frame {c : Config} {a b : Phasor} (h : phasorUpdate c isr a = .ok (b, n)) :
    b.nextPeriod = a.nextPeriod ∧ b.nextVolume = a.nextVolume ∧ b.out = a.out := by
  obtain ⟨p, -, ⟨-, -, rfl⟩ | ⟨-, e, hc, hw⟩⟩ := phasorUpdate_ok h
  · exact ⟨rfl, rfl, rfl⟩
  · obtain ⟨p', v, -, -, rfl⟩ := commitPhasor_ok hc
    obtain ⟨q, -, -, rfl⟩ := wrapPhase_ok hw
    exact ⟨rfl, rfl, rfl⟩

/-- With n = 0 there was no crossing, so the volume stays. -/
theorem phasorUpdate_volume {a b : Phasor} (ha : a.Kept d) (hisr : positiveFinite Config.core isr = true)
    (h : phasorUpdate Config.core isr a = .ok (b, 0)) : b.volume = a.volume := by
  obtain ⟨p, hp, ⟨-, -, rfl⟩ | ⟨hs, -⟩⟩ := phasorUpdate_ok h
  · rfl
  · obtain ⟨-, -, hn⟩ := phaseStep_core ha.phase ((Option.all_eq_true _ _).mp ha.period p hp) hisr hs
    exact absurd rfl hn

/-- UPDATE of P1 or P2 is UPDATE of the shared registers, and a commit of the duty (R113). -/
theorem pulseUpdate_phasorUpdate {c : Config} {g t : Pulse} (h : pulseUpdate c isr g = .ok (t, n)) :
    phasorUpdate c isr g.acc = .ok (t.acc, n) ∧ t.nextDuty = g.nextDuty ∧ (t.duty = g.duty ∨ t.duty = g.nextDuty) := by
  obtain ⟨p, hp, ⟨hs, rfl, rfl⟩ | ⟨hs, g', a, hc, hw, rfl⟩⟩ := pulseUpdate_ok h
  · refine ⟨?_, rfl, .inl rfl⟩
    simp [phasorUpdate, hp, bind_ok, hs]
  · obtain ⟨b, e, hb, he, rfl⟩ := commitPulse_ok hc
    refine ⟨?_, rfl, .inr he.symm⟩
    simp [phasorUpdate, hp, bind_ok, hs, hb, hw]

/-! ## Pulse, triangle, noise (R130, R131, R135) -/

theorem pulseGet_kept {invSr : Reg} {g t : Pulse} (hg : g.Kept d invSr) (hisr : positiveFinite Config.core isr = true)
    (h : pulseGet Config.core isr g = .ok (t, o)) : t.Kept d invSr ∧ F32.isFinite o = true := by
  obtain ⟨g', n, p, e, hu, -, he, hl, rfl⟩ := pulseGet_ok h
  obtain ⟨ha, hnext, hduty⟩ := pulseUpdate_phasorUpdate hu
  have hacc := phasorUpdate_kept hg.acc hisr ha
  have ho : F32.isFinite o = true := by
    have hv := (nonnegFinite_iff.mp (nonnegFinite_of_volumeRange isFinite_fOne hacc.volume)).1
    obtain ⟨-, rfl⟩ := pulseLevel_ok hl
    split
    · exact hv
    · exact (F32.isFinite_neg _).trans hv
  refine ⟨{ acc := hacc.withOut ho, duty := ?_, nextDuty := ?_, fresh := ?_ }, ho⟩
  · obtain hduty | hduty := hduty
    · exact hduty ▸ hg.duty
    · exact hduty ▸ hg.nextDuty
  · exact hnext ▸ hg.nextDuty
  · intro _ hnone
    exact nomatch he.symm.trans hnone

theorem triGet_kept {a b : Phasor} (ha : a.Kept d) (hisr : positiveFinite Config.core isr = true)
    (h : triGet Config.core isr a = .ok (b, o)) : b.Kept d ∧ F32.isFinite o = true := by
  obtain ⟨a', n, p, t, y, hu, -, -, -, ho, rfl⟩ := triGet_ok h
  have ho := isFinite_of_numeric ho
  exact ⟨(phasorUpdate_kept ha hisr hu).withOut ho, ho⟩

/-- The average counts at most every advance, so it lies in [0, 1] and the output in [0, VOLUME]. -/
theorem noiseGet_kept {g t : Noise} (hg : g.Kept d) (hisr : positiveFinite Config.core isr = true)
    (h : noiseGet Config.core isr g = .ok (t, o)) : t.Kept d ∧ F32.isFinite o = true := by
  obtain ⟨a, n, hu, hcases⟩ := noiseGet_ok h
  have hacc := phasorUpdate_kept hg.acc hisr hu
  obtain ⟨rfl, rfl, rfl⟩ | ⟨-, num, den, avg, hnum, hden, havg, ho, rfl⟩ := hcases
  · obtain ⟨-, -, hout⟩ := phasorUpdate_frame hu
    refine ⟨{ hg with acc := hacc, held := ?_ }, hacc.out⟩
    rw [phasorUpdate_volume hg.acc hisr hu, hout]
    exact hg.held
  · have hle : F32.units num ≤ F32.units den := by
      obtain ⟨-, rfl⟩ := ffromNat_ok.mp hnum
      obtain ⟨-, rfl⟩ := ffromNat_ok.mp hden
      exact F32.units_ofNat_le ((lfsrRun_count_le _ _ _ _ _).trans_eq (Nat.zero_add n))
    have hunit := fdiv_inUnit (ffromNat_nonneg hnum) (isFinite_of_numeric hden) hle havg
    obtain ⟨havg0, havg1⟩ := inUnit_iff.mp hunit
    have hv := nonnegFinite_of_volumeRange isFinite_fOne hacc.volume
    obtain ⟨hvfin, hv0⟩ := nonnegFinite_iff.mp hv
    have hheld := fmul_pendingRange havg0 hv hvfin (by
      rw [← units_fOne, mul_comm]
      exact mul_le_mul_of_nonneg_left havg1 hv0) ho
    have ho := isFinite_of_numeric ho
    exact ⟨
      { acc := hacc.withOut ho
        lfsr := lfsrRun_induction (P := (· ≠ 0#15)) (fun _ => lfsrAdvance_ne_zero) _ _ _ _ hg.lfsr
        average := hunit
        held := hheld }, ho⟩

/-! ## SMP (R161) -/

theorem smpInterpolate_ok {c : Config} {g t : Smp} (h : smpInterpolate c g = .ok (t, o)) :
    c.num.isFinite o = true ∧ t = { g with acc := { g.acc with out := o } } := by
  obtain ⟨p, -, h⟩ := bind_ok.mp h
  obtain ⟨t, -, h⟩ := bind_ok.mp h
  obtain ⟨y, -, h⟩ := bind_ok.mp h
  obtain ⟨out, ho, h⟩ := bind_ok.mp h
  cases h
  exact ⟨numeric_isFinite ho, rfl⟩

theorem smpAverage_ok {c : Config} {g t : Smp} (h : smpAverage c n g = .ok (t, o)) :
    ∃ avg, c.num.isFinite avg = true ∧ c.num.isFinite o = true ∧
      t = { acc := { g.acc with out := o }, queue := g.queue.drop n, hPrev := g.hCur, hCur := avg } := by
  obtain ⟨⟨s, q⟩, hsum, h⟩ := bind_ok.mp h
  obtain ⟨k, -, h⟩ := bind_ok.mp h
  obtain ⟨avg, havg, h⟩ := bind_ok.mp h
  obtain ⟨out, ho, h⟩ := bind_ok.mp h
  cases h
  obtain rfl := sumSamples_queue hsum
  exact ⟨avg, numeric_isFinite havg, numeric_isFinite ho, rfl⟩

theorem smpTake_kept {g : Smp} (hg : g.Kept d) : (smpTake g).Kept d := by
  have hqueue := hg.queue
  unfold smpTake
  cases hq : g.queue with
  | nil => exact { hg with queue := rfl, history := ⟨hg.history.2, isFinite_fZero⟩ }
  | cons x q =>
    rw [hq, List.all_cons, Bool.and_eq_true] at hqueue
    exact { hg with queue := hqueue.2, history := ⟨hg.history.2, hqueue.1⟩ }

theorem smpInterpolate_kept {g t : Smp} (hg : g.Kept d) (h : smpInterpolate Config.core g = .ok (t, o)) :
    t.Kept d ∧ F32.isFinite o = true := by
  obtain ⟨ho, rfl⟩ := smpInterpolate_ok h
  exact ⟨{ hg with acc := hg.acc.withOut ho }, ho⟩

theorem smpGet_kept {g t : Smp} (hg : g.Kept d) (hisr : positiveFinite Config.core isr = true)
    (h : smpGet Config.core isr g = .ok (t, o)) : t.Kept d ∧ F32.isFinite o = true := by
  obtain ⟨a, n, hu, hcases⟩ := smpGet_ok h
  have hacc := phasorUpdate_kept hg.acc hisr hu
  have hg' : ({ g with acc := a } : Smp).Kept d := { hg with acc := hacc }
  obtain ⟨-, h⟩ | ⟨-, h⟩ | ⟨-, h⟩ := hcases
  · obtain ⟨avg, havg, ho, rfl⟩ := smpAverage_ok h
    have hqueue : (g.queue.drop n).all F32.isFinite = true :=
      List.all_eq_true.mpr fun x hx => List.all_eq_true.mp hg.queue x (List.mem_of_mem_drop hx)
    exact ⟨{ acc := hacc.withOut ho, queue := hqueue, history := ⟨hg.history.2, havg⟩ }, ho⟩
  · exact smpInterpolate_kept (smpTake_kept hg') h
  · exact smpInterpolate_kept hg' h

/-! ## DSMP (R170 to R172) -/

theorem positiveFinite_currentPeriod {cur : Current} (hcur : cur.ok = true)
    (hisr : positiveFinite Config.core isr = true) : positiveFinite Config.core (cur.period isr) = true := by
  cases cur with
  | idle => exact hisr
  | entry e => exact (Bool.and_eq_true _ _ |>.mp hcur).1

theorem isFinite_currentValue {cur : Current} (hcur : cur.ok = true) : F32.isFinite cur.value = true := by
  cases cur with
  | idle => rfl
  | entry e => exact (Bool.and_eq_true _ _ |>.mp hcur).2

theorem dequeue_entries_ok {cur : Current} {q : List Entry} (hcur : cur.ok = true) (hq : q.all Entry.ok = true) :
    (nextCurrent cur q).ok = true ∧ (dequeue q).2.all Entry.ok = true := by
  cases q with
  | nil => exact ⟨hcur, rfl⟩
  | cons e q =>
    rw [List.all_cons, Bool.and_eq_true] at hq
    exact hq

/-- What the loop of DSMP_UPDATE keeps: a phase that is not negative, and accepted entries. -/
def DirectLoop.Kept (l : DirectLoop) : Prop :=
  nonnegFinite l.ph = true ∧ l.cur.ok = true ∧ l.queue.all Entry.ok = true

/-- An iteration subtracts a period only from a larger phase, and the loop ends on a phase no larger. -/
theorem directLoop_kept {room : Nat} {l t : DirectLoop} (hl : l.Kept) (hisr : positiveFinite Config.core isr = true)
    (h : directLoop Config.core isr room l = .ok t) : t.Kept ∧ F32.le t.ph (t.cur.period isr) = true := by
  have hstep (l : DirectLoop) (ph sum : F32) (hl : l.Kept) (hlt : F32.lt (l.cur.period isr) l.ph = true)
      (hph : fsub Config.core l.ph (l.cur.period isr) = .ok ph) :
      DirectLoop.Kept ⟨ph, l.n + 1, sum, nextCurrent l.cur l.queue, (dequeue l.queue).2⟩ := by
    obtain ⟨h0, hcur, hq⟩ := hl
    obtain ⟨hpfin, -⟩ := positiveFinite_iff.mp (positiveFinite_currentPeriod hcur hisr)
    exact ⟨fsub_nonneg (nonnegFinite_iff.mp h0).1 hpfin (F32.units_le_of_le (F32.le_of_lt hlt)) hph,
      dequeue_entries_ok hcur hq⟩
  obtain ⟨ht, hexit⟩ := directLoop_induction (fun l ph sum hl hlt hph _ => hstep l ph sum hl hlt hph) h hl
  refine ⟨ht, ?_⟩
  obtain ⟨h0, hcur, -⟩ := ht
  obtain ⟨hfin, -⟩ := nonnegFinite_iff.mp h0
  obtain ⟨hpfin, -⟩ := positiveFinite_iff.mp (positiveFinite_currentPeriod hcur hisr)
  rw [F32.le_iff_units hfin hpfin, ← not_lt, ← F32.lt_iff_units hpfin hfin]
  exact Bool.eq_false_iff.mp hexit

theorem dsmpCommit_ok {c : Config} {g t : Dsmp} (h : dsmpCommit c g = .ok t) :
    ∃ v, g.nextVolume = some v ∧ t = { g with volume := committedVolume c v } := by
  obtain ⟨v, hv, h⟩ := bind_ok.mp h
  cases h
  exact ⟨v, readWritten_ok.mp hv, rfl⟩

theorem dsmpUpdate_kept {g t : Dsmp} {s : F32} (hg : g.Kept (some isr)) (hisr : positiveFinite Config.core isr = true)
    (h : dsmpUpdate Config.core isr g = .ok (t, n, s)) : t.Kept (some isr) := by
  obtain ⟨l, hfin, hl, -, -, hcases⟩ := dsmpUpdate_ok h
  have hstart := fadd_nonneg hg.phase (nonnegFinite_of_positiveFinite hisr) (fadd_ok.mpr ⟨hfin, rfl⟩)
  obtain ⟨⟨hph, hcur, hq⟩, hle⟩ := directLoop_kept ⟨hstart, hg.cur, hg.queue⟩ hisr hl
  have hg' : ({ g with phase := l.ph, cur := l.cur, queue := l.queue } : Dsmp).Kept (some isr) :=
    { hg with phase := hph, queue := hq, cur := hcur, wrapped := hle }
  obtain ⟨-, rfl⟩ | ⟨-, hc⟩ := hcases
  · exact hg'
  · obtain ⟨v, hv, rfl⟩ := dsmpCommit_ok hc
    have hvolume := (Option.all_eq_true _ _).mp hg.nextVolume v hv
    exact { hg' with volume := volumeRange_committedVolume isFinite_directGain hvolume }

theorem dsmpInterpolate_ok {c : Config} {g t : Dsmp} (h : dsmpInterpolate c isr g = .ok (t, o)) :
    c.num.isFinite o = true ∧ t = { g with out := o } := by
  obtain ⟨t, -, h⟩ := bind_ok.mp h
  obtain ⟨y, -, h⟩ := bind_ok.mp h
  obtain ⟨out, ho, h⟩ := bind_ok.mp h
  cases h
  exact ⟨numeric_isFinite ho, rfl⟩

theorem dsmpAverage_ok {c : Config} {g t : Dsmp} {s : F32} (h : dsmpAverage c n s g = .ok (t, o)) :
    ∃ avg, c.num.isFinite avg = true ∧ c.num.isFinite o = true ∧ t = { pushDsmp avg g with out := o } := by
  obtain ⟨k, -, h⟩ := bind_ok.mp h
  obtain ⟨avg, havg, h⟩ := bind_ok.mp h
  obtain ⟨out, ho, h⟩ := bind_ok.mp h
  cases h
  exact ⟨avg, numeric_isFinite havg, numeric_isFinite ho, rfl⟩

theorem pushDsmp_kept {invSr : Reg} {g : Dsmp} {x : F32} (hg : g.Kept invSr) (hx : F32.isFinite x = true) :
    (pushDsmp x g).Kept invSr := { hg with history := ⟨hg.history.2, hx⟩ }

theorem Dsmp.Kept.withOut {invSr : Reg} {g : Dsmp} (hg : g.Kept invSr) (ho : F32.isFinite o = true) :
    ({ g with out := o } : Dsmp).Kept invSr := { hg with out := ho }

theorem dsmpGet_kept {g t : Dsmp} (hg : g.Kept (some isr)) (hisr : positiveFinite Config.core isr = true)
    (h : dsmpGet Config.core isr g = .ok (t, o)) : t.Kept (some isr) ∧ F32.isFinite o = true := by
  obtain ⟨g', n, s, hu, hcases⟩ := dsmpGet_ok h
  have hg' := dsmpUpdate_kept hg hisr hu
  obtain ⟨-, h⟩ | ⟨-, h⟩ | ⟨-, h⟩ := hcases
  · obtain ⟨avg, havg, ho, rfl⟩ := dsmpAverage_ok h
    exact ⟨(pushDsmp_kept hg' havg).withOut ho, ho⟩
  · obtain ⟨ho, rfl⟩ := dsmpInterpolate_ok h
    exact ⟨(pushDsmp_kept hg' (isFinite_currentValue hg'.cur)).withOut ho, ho⟩
  · obtain ⟨ho, rfl⟩ := dsmpInterpolate_ok h
    exact ⟨hg'.withOut ho, ho⟩

end Sys2Proof.Machine
end

section
/-! Every command keeps the invariants of the core (R51; O56, O57). -/

namespace Sys2Proof.Machine

/-! ## Operands and literals (R263, R49) -/

theorem nonnegFinite_literal {l : Literal} (h : l ≠ .clampLo) : nonnegFinite (Config.core.num.lit l) = true := by
  rw [core_num, binary32_lit]
  cases l
  case clampLo => exact absurd rfl h
  all_goals rfl

/-- `positiveFinite_reciprocal` as the operand checks write it. -/
theorem positiveFinite_core_reciprocal {x : F32} (hx : positiveFinite Config.core x = true)
    (hinf : ¬ Config.core.num.isInf (Config.core.num.div (Config.core.num.lit .one) x) = true) :
    positiveFinite Config.core (Config.core.num.div (Config.core.num.lit .one) x) = true := by
  simp only [core_num, binary32_isInf, binary32_div, binary32_one] at hinf ⊢
  exact positiveFinite_reciprocal hx (Bool.eq_false_iff.mpr hinf)

theorem sampleRatePeriod_ok {sr isr : F32} (h : sampleRatePeriod Config.core sr = .ok isr) :
    positiveFinite Config.core sr = true ∧ positiveFinite Config.core isr = true := by
  unfold sampleRatePeriod at h
  split at h
  · rename_i hsr
    split at h <;> cases h
    exact ⟨hsr, positiveFinite_core_reciprocal hsr ‹_›⟩
  · exact nomatch h

theorem frequencyPeriod_ok {hz p : F32} (h : frequencyPeriod Config.core hz = .ok p) :
    positiveFinite Config.core p = true := by
  unfold frequencyPeriod at h
  split at h
  · rename_i hhz
    split at h <;> cases h
    exact positiveFinite_core_reciprocal hhz ‹_›
  · exact nomatch h

section
variable {c : Config} {x y : F32}

theorem volumeOperand_ok : volumeOperand c x = .ok y ↔ inUnit c x = true ∧ y = x := by
  unfold volumeOperand
  split <;> rename_i h <;> simp [h, eq_comm (a := y)]

theorem dutyOperand_ok : dutyOperand c x = .ok y ↔ inUnit c x = true ∧ y = x := by
  unfold dutyOperand
  split <;> rename_i h <;> simp [h, eq_comm (a := y)]

theorem sampleOperand_ok : sampleOperand c x = .ok y ↔ c.num.isFinite x = true ∧ y = x := by
  unfold sampleOperand
  split <;> rename_i h <;> simp [h, eq_comm (a := y)]

theorem directPeriodOperand_ok : directPeriodOperand c x = .ok y ↔ positiveFinite c x = true ∧ y = x := by
  unfold directPeriodOperand
  split <;> rename_i h <;> simp [h, eq_comm (a := y)]

end

/-! ## Filters (R201 to R205) -/

theorem filterRC_nonneg {fc rc : F32} (hfc : nonnegFinite fc = true) (h : filterRC Config.core fc = .ok rc) :
    nonnegFinite rc = true := by
  obtain ⟨twoPi, h1, h⟩ := bind_ok.mp h
  obtain ⟨w, h2, h⟩ := bind_ok.mp h
  have htwoPi := fmul_nonneg (nonnegFinite_literal (by decide)) (nonnegFinite_literal (by decide)) h1
  exact fdiv_nonneg (nonnegFinite_literal (by decide)) (fmul_nonneg htwoPi hfc h2) h

/-- RC is no more than RC + INV_SR. -/
theorem highPassAlpha_inUnit {isr fc alpha : F32} (hisr : nonnegFinite isr = true) (hfc : nonnegFinite fc = true)
    (h : highPassAlpha Config.core isr fc = .ok alpha) : inUnit Config.core alpha = true := by
  obtain ⟨rc, h1, h⟩ := bind_ok.mp h
  obtain ⟨den, h2, h⟩ := bind_ok.mp h
  have hrc := filterRC_nonneg hfc h1
  exact fdiv_inUnit hrc (isFinite_of_numeric h2) (le_fadd hrc hisr h2) h

/-- 1.0 is no more than 1.0 + RC * SR. -/
theorem lowPassAlpha_inUnit {sr fc alpha : F32} (hsr : nonnegFinite sr = true) (hfc : nonnegFinite fc = true)
    (h : lowPassAlpha Config.core sr fc = .ok alpha) : inUnit Config.core alpha = true := by
  obtain ⟨rc, h1, h⟩ := bind_ok.mp h
  obtain ⟨m, h2, h⟩ := bind_ok.mp h
  obtain ⟨den, h3, h⟩ := bind_ok.mp h
  have hm := fmul_nonneg (filterRC_nonneg hfc h1) hsr h2
  have hone : nonnegFinite (Config.core.num.lit .one) = true := nonnegFinite_literal (by decide)
  exact fdiv_inUnit hone (isFinite_of_numeric h3) (le_fadd hone hm h3) h

section
variable {d : Bool} {isr sr fc : F32}

theorem highPassInit_kept {f : HighPass} (hisr : nonnegFinite isr = true) (hsr : nonnegFinite sr = true)
    (hfc : nonnegFinite fc = true) (h : highPassInit Config.core isr sr fc = .ok f) : f.Kept d := by
  obtain ⟨alpha, ha, h⟩ := bind_ok.mp h
  cases h
  exact
    { regs := ⟨(nonnegFinite_iff.mp hsr).1, (nonnegFinite_iff.mp hfc).1⟩
      alpha := highPassAlpha_inUnit hisr hfc ha
      memory := ⟨isFinite_fZero, isFinite_fZero⟩
      written := fun _ => rfl }

theorem lowPassInit_kept {f : LowPass} (hsr : nonnegFinite sr = true) (hfc : nonnegFinite fc = true)
    (h : lowPassInit Config.core sr fc = .ok f) : f.Kept d := by
  obtain ⟨alpha, ha, h⟩ := bind_ok.mp h
  cases h
  exact
    { regs := ⟨(nonnegFinite_iff.mp hsr).1, (nonnegFinite_iff.mp hfc).1⟩
      alpha := lowPassAlpha_inUnit hsr hfc ha
      memory := isFinite_fZero
      written := fun _ => rfl }

end

theorem applyHighPass_ok {c : Config} {f t : HighPass} {x y : F32} (h : applyHighPass c f x = .ok (t, y)) :
    c.num.isFinite y = true ∧ t = { f with xPrev := x, yPrev := y } := by
  obtain ⟨alpha, -, h⟩ := bind_ok.mp h
  obtain ⟨a, -, h⟩ := bind_ok.mp h
  obtain ⟨e, -, h⟩ := bind_ok.mp h
  obtain ⟨b, -, h⟩ := bind_ok.mp h
  obtain ⟨y', hy, h⟩ := bind_ok.mp h
  cases h
  exact ⟨numeric_isFinite hy, rfl⟩

theorem applyLowPass_ok {c : Config} {f t : LowPass} {x y : F32} (h : applyLowPass c f x = .ok (t, y)) :
    c.num.isFinite y = true ∧ t = { f with yPrev := y } := by
  obtain ⟨alpha, -, h⟩ := bind_ok.mp h
  obtain ⟨e, -, h⟩ := bind_ok.mp h
  obtain ⟨b, -, h⟩ := bind_ok.mp h
  obtain ⟨y', hy, h⟩ := bind_ok.mp h
  cases h
  exact ⟨numeric_isFinite hy, rfl⟩

/-! ## What a command does (R264, R267) -/

/-- The effect of a command that raises no fault: the body its arm of `exec` performs. -/
def commandBody : Instr → State → Except Cause State
  | .init sr => initBody Config.core sr
  | .clear => clearBody
  | .mix => mixBody Config.core
  | .get ch => getBody Config.core ch
  | .setfreq ch hz => setfreqBody Config.core ch hz
  | .setvol ch v => setvolBody Config.core ch v
  | .setduty ch e => setdutyBody Config.core ch e
  | .setmetal b => setmetalBody b
  | .addsample x => addsampleBody Config.core x
  | .adddirect p x => adddirectBody Config.core p x

theorem exec_eq_perform (i : Instr) (s : State) : exec i s = perform (headerOf i) (commandBody i) s := by
  cases i <;> rfl

/-- Everything a command can do: nothing on a faulted core, its effect, or a fault. -/
theorem exec_cases {i : Instr} {s t : State} (h : exec i s = .next t) :
    (s.faultValid = true ∧ t = s) ∨
    (s.faultValid = false ∧ commandBody i s = .ok t) ∨
    (s.faultValid = false ∧ ∃ c, commandBody i s = .error c ∧ t = takeFault c (headerOf i) s) :=
  perform_cases (exec_eq_perform i s ▸ h)

section
variable {c : Config} {s t : State}

theorem initBody_ok {sr : F32} (h : initBody c sr s = .ok t) :
    ∃ isr f0 f1 f2, sampleRatePeriod c sr = .ok isr ∧ highPassInit c isr sr (c.num.lit .cutoff0) = .ok f0 ∧
      highPassInit c isr sr (c.num.lit .cutoff1) = .ok f1 ∧ lowPassInit c sr (c.num.lit .cutoff2) = .ok f2 ∧
      t =
        { s with
          initDone := true, invSr := some isr, p1 := initPulse isr s.p1, p2 := initPulse isr s.p2
          tri := initPhasor isr s.tri, noise := initNoise isr s.noise, smp := initSmp isr s.smp
          dsmp := initDsmp s.dsmp, f0 := f0, f1 := f1, f2 := f2 } := by
  obtain ⟨isr, h0, h⟩ := bind_ok.mp h
  obtain ⟨f0, h1, h⟩ := bind_ok.mp h
  obtain ⟨f1, h2, h⟩ := bind_ok.mp h
  obtain ⟨f2, h3, h⟩ := bind_ok.mp h
  cases h
  exact ⟨isr, f0, f1, f2, h0, h1, h2, h3, rfl⟩

theorem setfreqBody_ok {ch : Channel} {hz : F32} (h : setfreqBody c ch hz s = .ok t) :
    ∃ p, frequencyPeriod c hz = .ok p ∧ t = writeNextPeriod ch p s := by
  obtain ⟨p, hp, h⟩ := bind_ok.mp h
  cases h
  exact ⟨p, hp, rfl⟩

theorem setvolBody_ok {ch : Channel} {v : F32} (h : setvolBody c ch v s = .ok t) :
    ∃ w, inUnit c v = true ∧ pendingVolume c ch v = .ok w ∧ t = writeNextVolume ch w s := by
  obtain ⟨v', hv, h⟩ := bind_ok.mp h
  obtain ⟨w, hw, h⟩ := bind_ok.mp h
  cases h
  obtain ⟨hv, rfl⟩ := volumeOperand_ok.mp hv
  exact ⟨w, hv, hw, rfl⟩

theorem setdutyBody_ok {ch : Channel} {e : F32} (h : setdutyBody c ch e s = .ok t) :
    inUnit c e = true ∧
      (t = { s with p1 := { s.p1 with nextDuty := some e } } ∨ t = { s with p2 := { s.p2 with nextDuty := some e } }) := by
  unfold setdutyBody at h
  split at h
  · obtain ⟨e', he, h⟩ := bind_ok.mp h
    obtain ⟨he, he'⟩ := dutyOperand_ok.mp he
    rw [he'] at h
    refine ⟨he, ?_⟩
    cases ch <;> cases h
    · exact .inl rfl
    · exact .inr rfl
  · exact nomatch h

theorem addsampleBody_ok {x : F32} (h : addsampleBody c x s = .ok t) :
    ∃ q, c.num.isFinite x = true ∧ enqueue c s.smp.queue x = .ok q ∧ t = { s with smp := { s.smp with queue := q } } := by
  obtain ⟨x', hx, h⟩ := bind_ok.mp h
  obtain ⟨q, hq, h⟩ := bind_ok.mp h
  cases h
  obtain ⟨hx, rfl⟩ := sampleOperand_ok.mp hx
  exact ⟨q, hx, hq, rfl⟩

theorem adddirectBody_ok {p x : F32} (h : adddirectBody c p x s = .ok t) :
    ∃ q, positiveFinite c p = true ∧ c.num.isFinite x = true ∧ enqueue c s.dsmp.queue ⟨p, x⟩ = .ok q ∧
      t = { s with dsmp := { s.dsmp with queue := q } } := by
  obtain ⟨p', hp, h⟩ := bind_ok.mp h
  obtain ⟨x', hx, h⟩ := bind_ok.mp h
  obtain ⟨q, hq, h⟩ := bind_ok.mp h
  cases h
  obtain ⟨hp, rfl⟩ := directPeriodOperand_ok.mp hp
  obtain ⟨hx, rfl⟩ := sampleOperand_ok.mp hx
  exact ⟨q, hp, hx, hq, rfl⟩

end

/-! ## INIT and CLEAR (R235, R180) -/

theorem inUnit_fZero : inUnit Config.core fZero = true := by decide +kernel
theorem pendingRange_fZero : pendingRange fZero fZero = true := by decide

section
variable {d d' : Bool} {isr : F32} {invSr : Reg} (hisr : positiveFinite Config.core isr = true)
include hisr

theorem initPhasor_kept {a : Phasor} (ha : a.Kept d) : (initPhasor isr a).Kept d' :=
  { ha with
    phase := rfl
    period := hisr
    volume := volumeRange_fZero _
    out := isFinite_fZero
    wrapped := (Bool.and_eq_true _ _ |>.mp hisr).1
    written := fun _ => rfl }

theorem initPulse_kept {g : Pulse} (hg : g.Kept d invSr) : (initPulse isr g).Kept d' (some isr) :=
  { hg with acc := initPhasor_kept hisr hg.acc, fresh := fun _ _ => ⟨rfl, rfl⟩ }

theorem initNoise_kept {g : Noise} (hg : g.Kept d) : (initNoise isr g).Kept d' :=
  { hg with acc := initPhasor_kept hisr hg.acc, average := inUnit_fZero, held := pendingRange_fZero }

theorem initSmp_kept {g : Smp} (hg : g.Kept d) : (initSmp isr g).Kept d' :=
  { acc := initPhasor_kept hisr hg.acc, queue := rfl, history := ⟨isFinite_fZero, isFinite_fZero⟩ }

end

theorem clearSmp_kept {d : Bool} {g : Smp} (hg : g.Kept d) : (clearSmp g).Kept d where
  acc :=
    { hg.acc with
      phase := rfl
      out := isFinite_fZero
      wrapped := (Option.all_eq_true _ _).mpr fun p hp =>
        (Bool.and_eq_true _ _ |>.mp ((Option.all_eq_true _ _).mp hg.acc.period p hp)).1 }
  queue := rfl
  history := ⟨isFinite_fZero, isFinite_fZero⟩

/-- Phase +0.0 does not exceed INV_SR. -/
theorem clearDsmp_kept {invSr invSr' : Reg} {g : Dsmp} (hg : g.Kept invSr)
    (h : invSr'.all (positiveFinite Config.core) = true) : (clearDsmp g).Kept invSr' :=
  { hg with
    phase := rfl
    out := isFinite_fZero
    queue := rfl
    history := ⟨isFinite_fZero, isFinite_fZero⟩
    cur := rfl
    wrapped := (Option.all_eq_true _ _).mpr fun isr hisr =>
      F32.le_of_lt (Bool.and_eq_true _ _ |>.mp ((Option.all_eq_true _ _).mp h isr hisr)).1 }

theorem initDsmp_kept {invSr invSr' : Reg} {g : Dsmp} (hg : g.Kept invSr)
    (h : invSr'.all (positiveFinite Config.core) = true) : (initDsmp g).Kept invSr' :=
  { clearDsmp_kept hg h with volume := volumeRange_fZero _ }

/-! ## Commands -/

section
variable {s t : State}

theorem initBody_inv {sr : F32} (hs : s.Inv) (h : initBody Config.core sr s = .ok t) : t.Inv := by
  obtain ⟨isr, f0, f1, f2, hsr, h0, h1, h2, rfl⟩ := initBody_ok h
  obtain ⟨hsr, hisr⟩ := sampleRatePeriod_ok hsr
  have hisr0 := nonnegFinite_of_positiveFinite hisr
  have hsr0 := nonnegFinite_of_positiveFinite hsr
  exact
    { hs with
      invSr := hisr
      written := fun _ => rfl
      p1 := initPulse_kept hisr hs.p1
      p2 := initPulse_kept hisr hs.p2
      tri := initPhasor_kept hisr hs.tri
      noise := initNoise_kept hisr hs.noise
      smp := initSmp_kept hisr hs.smp
      dsmp := initDsmp_kept hs.dsmp hisr
      f0 := highPassInit_kept hisr0 hsr0 (nonnegFinite_literal (by decide)) h0
      f1 := highPassInit_kept hisr0 hsr0 (nonnegFinite_literal (by decide)) h1
      f2 := lowPassInit_kept hsr0 (nonnegFinite_literal (by decide)) h2 }

theorem clearBody_inv (hs : s.Inv) (h : clearBody s = .ok t) : t.Inv := by
  cases h
  exact { hs with smp := clearSmp_kept hs.smp, dsmp := clearDsmp_kept hs.dsmp hs.invSr }

theorem putResult_inv {r : F32} (hs : s.Inv) (hr : F32.isFinite r = true) : (putResult r s).Inv :=
  { hs with results := by rw [putResult_results, List.all_append, hs.results]; simpa using hr }

/-- Each tick keeps the invariants, and what it outputs is finite. -/
theorem tick_inv {ch : Channel} {isr r : F32} (hs : s.Inv) (hsr : s.invSr = some isr)
    (ht : tick Config.core isr ch s = .ok (t, r)) : t.Inv ∧ F32.isFinite r = true := by
  have hisr := (Option.all_eq_true _ _).mp hs.invSr isr hsr
  have ht := tick_ok ht
  cases ch
  · obtain ⟨g, h, rfl⟩ := ht
    obtain ⟨hg, hr⟩ := pulseGet_kept hs.p1 hisr h
    exact ⟨{ hs with p1 := hg }, hr⟩
  · obtain ⟨g, h, rfl⟩ := ht
    obtain ⟨hg, hr⟩ := pulseGet_kept hs.p2 hisr h
    exact ⟨{ hs with p2 := hg }, hr⟩
  · obtain ⟨g, h, rfl⟩ := ht
    obtain ⟨hg, hr⟩ := triGet_kept hs.tri hisr h
    exact ⟨{ hs with tri := hg }, hr⟩
  · obtain ⟨g, h, rfl⟩ := ht
    obtain ⟨hg, hr⟩ := noiseGet_kept hs.noise hisr h
    exact ⟨{ hs with noise := hg }, hr⟩
  · obtain ⟨g, h, rfl⟩ := ht
    obtain ⟨hg, hr⟩ := smpGet_kept hs.smp hisr h
    exact ⟨{ hs with smp := hg }, hr⟩
  · obtain ⟨g, h, rfl⟩ := ht
    obtain ⟨hg, hr⟩ := dsmpGet_kept (hsr ▸ hs.dsmp) hisr h
    exact ⟨{ hs with dsmp := hsr ▸ hg }, hr⟩

theorem getBody_inv {ch : Channel} (hs : s.Inv) (h : getBody Config.core ch s = .ok t) : t.Inv := by
  obtain ⟨isr, s', r, -, hsr, ht, rfl⟩ := getBody_ok h
  obtain ⟨hs', hr⟩ := tick_inv hs hsr ht
  exact putResult_inv hs' hr

theorem filterChain_inv {x y : F32} (hs : s.Inv) (hx : F32.isFinite x = true)
    (h : filterChain Config.core s x = .ok (t, y)) : t.Inv ∧ F32.isFinite y = true := by
  obtain ⟨f0, a, f1, b, f2, h0, h1, h2, rfl⟩ := filterChain_ok h
  obtain ⟨ha, rfl⟩ := applyHighPass_ok h0
  obtain ⟨hb, rfl⟩ := applyHighPass_ok h1
  obtain ⟨hy, rfl⟩ := applyLowPass_ok h2
  exact
    ⟨{ hs with
        f0 := { hs.f0 with memory := ⟨hx, ha⟩ }
        f1 := { hs.f1 with memory := ⟨ha, hb⟩ }
        f2 := { hs.f2 with memory := hy } }, hy⟩

theorem isFinite_clamp {m : F32} (hm : F32.isFinite m = true) : F32.isFinite (clamp Config.core m) = true := by
  simp only [clamp, core_num, binary32_clampHi, binary32_clampLo]
  split
  · decide
  · split
    · decide
    · exact hm

theorem isFinite_weightedMean {o0 o1 o2 o3 o4 o5 m : F32}
    (h : weightedMean Config.core o0 o1 o2 o3 o4 o5 = .ok m) : F32.isFinite m = true := by
  unfold weightedMean at h
  simp only [bind_ok] at h
  obtain ⟨_, -, _, -, _, -, _, -, _, -, _, -, h⟩ := h
  exact isFinite_of_numeric h

theorem mixBody_inv (hs : s.Inv) (h : mixBody Config.core s = .ok t) : t.Inv := by
  obtain ⟨isr, p1, p2, tri, noise, smp, dsmp, o0, o1, o2, o3, o4, o5, m, s', y, -, hsr, h0, h1, h2, h3, h4, h5, hm, hf,
    rfl⟩ := mixBody_ok h
  have hisr := (Option.all_eq_true _ _).mp hs.invSr isr hsr
  obtain ⟨hs', hy⟩ := filterChain_inv
    (s := { s with p1 := p1, p2 := p2, tri := tri, noise := noise, smp := smp, dsmp := dsmp })
    { hs with
      p1 := (pulseGet_kept hs.p1 hisr h0).1
      p2 := (pulseGet_kept hs.p2 hisr h1).1
      tri := (triGet_kept hs.tri hisr h2).1
      noise := (noiseGet_kept hs.noise hisr h3).1
      smp := (smpGet_kept hs.smp hisr h4).1
      dsmp := hsr ▸ (dsmpGet_kept (hsr ▸ hs.dsmp) hisr h5).1 }
    (isFinite_weightedMean hm) hf
  exact putResult_inv hs' (isFinite_clamp hy)

theorem setfreqBody_inv {ch : Channel} {hz : F32} (hs : s.Inv) (h : setfreqBody Config.core ch hz s = .ok t) :
    t.Inv := by
  obtain ⟨p, hp, rfl⟩ := setfreqBody_ok h
  have hp := frequencyPeriod_ok hp
  cases ch
  · exact { hs with p1 := { hs.p1 with acc := { hs.p1.acc with nextPeriod := hp } } }
  · exact { hs with p2 := { hs.p2 with acc := { hs.p2.acc with nextPeriod := hp } } }
  · exact { hs with tri := { hs.tri with nextPeriod := hp } }
  · exact { hs with noise := { hs.noise with acc := { hs.noise.acc with nextPeriod := hp } } }
  · exact { hs with smp := { hs.smp with acc := { hs.smp.acc with nextPeriod := hp } } }
  · exact hs

theorem pendingVolume_eq {c : Config} {ch : Channel} {v w : F32} (hch : ch ≠ .dsmp)
    (h : pendingVolume c ch v = .ok w) : w = v := by
  cases ch
  case dsmp => exact absurd rfl hch
  all_goals
    cases h
    rfl

/-- 2.5 times a volume in [0, 1] rounds to at most 2.5 (R176). -/
theorem directGain_pendingRange {v w : F32} (hv : inUnit Config.core v = true)
    (h : pendingVolume Config.core .dsmp v = .ok w) : pendingRange directGain w = true := by
  obtain ⟨hv0, hv1⟩ := inUnit_iff.mp hv
  have hgain : F32.units (Config.core.num.lit .directGain) = F32.units directGain := by rw [core_num, binary32_directGain]
  refine fmul_pendingRange (nonnegFinite_literal (by decide)) hv0 isFinite_directGain ?_ h
  rw [hgain, ← units_fOne]
  exact mul_le_mul_of_nonneg_left hv1 (by decide +kernel)

theorem setvolBody_inv {ch : Channel} {v : F32} (hs : s.Inv) (h : setvolBody Config.core ch v s = .ok t) : t.Inv := by
  obtain ⟨w, hv, hw, rfl⟩ := setvolBody_ok h
  have hunit (hch : ch ≠ .dsmp) : pendingRange fOne w = true := by
    rw [← inUnit_eq_pendingRange, pendingVolume_eq hch hw]
    exact hv
  cases ch
  · exact { hs with p1 := { hs.p1 with acc := { hs.p1.acc with nextVolume := hunit (by decide) } } }
  · exact { hs with p2 := { hs.p2 with acc := { hs.p2.acc with nextVolume := hunit (by decide) } } }
  · exact { hs with tri := { hs.tri with nextVolume := hunit (by decide) } }
  · exact { hs with noise := { hs.noise with acc := { hs.noise.acc with nextVolume := hunit (by decide) } } }
  · exact { hs with smp := { hs.smp with acc := { hs.smp.acc with nextVolume := hunit (by decide) } } }
  · exact { hs with dsmp := { hs.dsmp with nextVolume := directGain_pendingRange hv hw } }

theorem setdutyBody_inv {ch : Channel} {e : F32} (hs : s.Inv) (h : setdutyBody Config.core ch e s = .ok t) :
    t.Inv := by
  obtain ⟨he, rfl | rfl⟩ := setdutyBody_ok h
  · exact { hs with p1 := { hs.p1 with nextDuty := he } }
  · exact { hs with p2 := { hs.p2 with nextDuty := he } }

theorem setmetalBody_inv {b : Bool} (hs : s.Inv) (h : setmetalBody b s = .ok t) : t.Inv := by
  cases h
  exact { hs with noise := { hs.noise with } }

/-- An enqueue keeps what holds of every entry and of the new one (R63, R65). -/
theorem enqueue_all {α : Type} {c : Config} {p : α → Bool} {q q' : List α} {e : α} (hq : q.all p = true)
    (he : p e = true) (h : enqueue c q e = .ok q') : q'.all p = true := by
  have hdrop : (q.drop 1).all p = true :=
    List.all_eq_true.mpr fun x hx => List.all_eq_true.mp hq x (List.mem_of_mem_drop hx)
  obtain rfl | rfl := enqueue_ok h
  · simp [List.all_append, hq, he]
  · rw [List.all_append, hdrop]
    simp [he]

theorem addsampleBody_inv {x : F32} (hs : s.Inv) (h : addsampleBody Config.core x s = .ok t) : t.Inv := by
  obtain ⟨q, hx, hq, rfl⟩ := addsampleBody_ok h
  exact { hs with smp := { hs.smp with queue := enqueue_all hs.smp.queue hx hq } }

theorem adddirectBody_inv {p x : F32} (hs : s.Inv) (h : adddirectBody Config.core p x s = .ok t) : t.Inv := by
  obtain ⟨q, hp, hx, hq, rfl⟩ := adddirectBody_ok h
  have hentry : (⟨p, x⟩ : Entry).ok = true := Bool.and_eq_true _ _ |>.mpr ⟨hp, hx⟩
  exact { hs with dsmp := { hs.dsmp with queue := enqueue_all hs.dsmp.queue hentry hq } }

theorem commandBody_inv {i : Instr} (hs : s.Inv) (h : commandBody i s = .ok t) : t.Inv := by
  cases i
  · exact initBody_inv hs h
  · exact clearBody_inv hs h
  · exact mixBody_inv hs h
  · exact getBody_inv hs h
  · exact setfreqBody_inv hs h
  · exact setvolBody_inv hs h
  · exact setdutyBody_inv hs h
  · exact setmetalBody_inv hs h
  · exact addsampleBody_inv hs h
  · exact adddirectBody_inv hs h

/-- The code of a cause is 1 to 12 (R261). -/
theorem cause_code_range (c : Cause) : 1 ≤ c.code.toNat ∧ c.code.toNat ≤ 12 := by cases c <;> decide

theorem takeFault_inv {c : Cause} {hd : Word} (hs : s.Inv) : (takeFault c hd s).Inv :=
  { hs with noFault := nofun, fault := fun _ => cause_code_range c }

theorem perform_inv {hd : Word} {body : State → Except Cause State} (hs : s.Inv)
    (hbody : ∀ t, body s = .ok t → t.Inv) (h : perform hd body s = .next t) : t.Inv := by
  obtain ⟨-, rfl⟩ | ⟨-, h⟩ | ⟨-, c, -, rfl⟩ := perform_cases h
  · exact hs
  · exact hbody t h
  · exact takeFault_inv hs

theorem exec_inv {i : Instr} (hs : s.Inv) (h : exec i s = .next t) : t.Inv :=
  perform_inv hs (fun _ => commandBody_inv hs) (exec_eq_perform i s ▸ h)

/-- No invariant is about the command port. -/
theorem withPort_inv {ws : List Word} (hs : s.Inv) : ({ s with port := ws } : State).Inv := { hs with }

end

/-- Settles O57: the effect of each command keeps the invariants, and a fault writes the fault registers alone. -/
theorem invKeptByEveryStep : Obligations.InvKeptByEveryStep := by
  intro s t hs h
  obtain ⟨i, rest, -, h⟩ | ⟨hd, why, rest, -, h⟩ := step_cases h
  · exact exec_inv (withPort_inv hs) h
  · exact perform_inv (withPort_inv hs) (fun _ h => by cases h) h

theorem phasor_powerOn_kept : Phasor.powerOn.Kept false := by constructor <;> decide

theorem pulse_powerOn_kept : Pulse.powerOn.Kept false none :=
  ⟨phasor_powerOn_kept, rfl, rfl, nofun⟩

theorem highPass_powerOn_kept : HighPass.powerOn.Kept false := by constructor <;> decide

/-- Settles O56: the registers are zero or UNWRITTEN, and the seed of the LFSR is not 0. -/
theorem invHoldsAtReset : Obligations.InvHoldsAtReset where
  invSr := rfl
  written := nofun
  noFault _ := ⟨rfl, rfl⟩
  fault := nofun
  p1 := pulse_powerOn_kept
  p2 := pulse_powerOn_kept
  tri := phasor_powerOn_kept
  noise := ⟨phasor_powerOn_kept, by decide, inUnit_fZero, pendingRange_fZero⟩
  smp := ⟨phasor_powerOn_kept, rfl, isFinite_fZero, isFinite_fZero⟩
  dsmp := by constructor <;> decide
  f0 := highPass_powerOn_kept
  f1 := highPass_powerOn_kept
  f2 := by constructor <;> decide
  results := rfl

end Sys2Proof.Machine
end

section
/-! What a command leaves unchanged: the registers no tick writes (R48; O50), and the writers of each status register
(R46; O51). -/

namespace Sys2Proof.Machine

/-! ## Registers a get leaves unchanged (R48) -/

section
variable {c : Config} {isr o : F32}

theorem pulseGet_frame {g t : Pulse} (h : pulseGet c isr g = .ok (t, o)) :
    t.acc.nextPeriod = g.acc.nextPeriod ∧ t.acc.nextVolume = g.acc.nextVolume ∧ t.nextDuty = g.nextDuty := by
  obtain ⟨g', n, p, e, hu, -, -, -, rfl⟩ := pulseGet_ok h
  obtain ⟨hu, hduty, -⟩ := pulseUpdate_phasorUpdate hu
  obtain ⟨hperiod, hvolume, -⟩ := phasorUpdate_frame hu
  exact ⟨hperiod, hvolume, hduty⟩

theorem triGet_frame {a b : Phasor} (h : triGet c isr a = .ok (b, o)) :
    b.nextPeriod = a.nextPeriod ∧ b.nextVolume = a.nextVolume := by
  obtain ⟨a', n, p, t, y, hu, -, -, -, -, rfl⟩ := triGet_ok h
  obtain ⟨hperiod, hvolume, -⟩ := phasorUpdate_frame hu
  exact ⟨hperiod, hvolume⟩

theorem noiseGet_frame {g t : Noise} (h : noiseGet c isr g = .ok (t, o)) :
    t.acc.nextPeriod = g.acc.nextPeriod ∧ t.acc.nextVolume = g.acc.nextVolume ∧ t.metallic = g.metallic := by
  obtain ⟨a, n, hu, ⟨-, rfl, -⟩ | ⟨-, num, den, avg, -, -, -, -, rfl⟩⟩ := noiseGet_ok h <;>
    obtain ⟨hperiod, hvolume, -⟩ := phasorUpdate_frame hu <;>
    exact ⟨hperiod, hvolume, rfl⟩

theorem smpGet_frame {g t : Smp} (h : smpGet c isr g = .ok (t, o)) :
    t.acc.nextPeriod = g.acc.nextPeriod ∧ t.acc.nextVolume = g.acc.nextVolume := by
  obtain ⟨a, n, hu, hcases⟩ := smpGet_ok h
  obtain ⟨hperiod, hvolume, -⟩ := phasorUpdate_frame hu
  obtain ⟨-, h⟩ | ⟨-, h⟩ | ⟨-, h⟩ := hcases
  · obtain ⟨avg, -, -, rfl⟩ := smpAverage_ok h
    exact ⟨hperiod, hvolume⟩
  · obtain ⟨-, rfl⟩ := smpInterpolate_ok h
    exact ⟨hperiod, hvolume⟩
  · obtain ⟨-, rfl⟩ := smpInterpolate_ok h
    exact ⟨hperiod, hvolume⟩

theorem dsmpUpdate_frame {g t : Dsmp} {n : Nat} {s : F32} (h : dsmpUpdate c isr g = .ok (t, n, s)) :
    t.nextVolume = g.nextVolume := by
  obtain ⟨l, -, -, -, -, ⟨-, rfl⟩ | ⟨-, hc⟩⟩ := dsmpUpdate_ok h
  · rfl
  · obtain ⟨v, -, rfl⟩ := dsmpCommit_ok hc
    rfl

theorem dsmpGet_frame {g t : Dsmp} (h : dsmpGet c isr g = .ok (t, o)) : t.nextVolume = g.nextVolume := by
  obtain ⟨g', n, s, hu, hcases⟩ := dsmpGet_ok h
  rw [← dsmpUpdate_frame hu]
  obtain ⟨-, h⟩ | ⟨-, h⟩ | ⟨-, h⟩ := hcases
  · obtain ⟨avg, -, -, rfl⟩ := dsmpAverage_ok h
    rfl
  · obtain ⟨-, rfl⟩ := dsmpInterpolate_ok h
    rfl
  · obtain ⟨-, rfl⟩ := dsmpInterpolate_ok h
    rfl

end

/-! ## Registers of the state -/

/-- The sideband, INV_SR and the filters' SR, FC and ALPHA: what only INIT and a fault change (R46). -/
def State.status (s : State) : Sideband × Reg × (Reg × Reg × Reg) × (Reg × Reg × Reg) × (Reg × Reg × Reg) :=
  (s.sideband, s.invSr, (s.f0.sr, s.f0.fc, s.f0.alpha), (s.f1.sr, s.f1.fc, s.f1.alpha),
    (s.f2.sr, s.f2.fc, s.f2.alpha))

theorem status_eq_iff {s t : State} : t.status = s.status ↔
    (t.initDone = s.initDone ∧ t.faultValid = s.faultValid ∧ t.faultCause = s.faultCause ∧ t.faultHdr = s.faultHdr) ∧
    t.invSr = s.invSr ∧
    (t.f0.sr = s.f0.sr ∧ t.f0.fc = s.f0.fc ∧ t.f0.alpha = s.f0.alpha) ∧
    (t.f1.sr = s.f1.sr ∧ t.f1.fc = s.f1.fc ∧ t.f1.alpha = s.f1.alpha) ∧
    (t.f2.sr = s.f2.sr ∧ t.f2.fc = s.f2.fc ∧ t.f2.alpha = s.f2.alpha) := by
  simp only [State.status, State.sideband, Prod.mk.injEq, Sideband.mk.injEq]

/-- `t` has the pending registers of `s`, and METALLIC (R48). -/
structure State.SamePending (s t : State) : Prop where
  p1 : t.p1.acc.nextPeriod = s.p1.acc.nextPeriod ∧ t.p1.acc.nextVolume = s.p1.acc.nextVolume ∧
    t.p1.nextDuty = s.p1.nextDuty
  p2 : t.p2.acc.nextPeriod = s.p2.acc.nextPeriod ∧ t.p2.acc.nextVolume = s.p2.acc.nextVolume ∧
    t.p2.nextDuty = s.p2.nextDuty
  tri : t.tri.nextPeriod = s.tri.nextPeriod ∧ t.tri.nextVolume = s.tri.nextVolume
  noise : t.noise.acc.nextPeriod = s.noise.acc.nextPeriod ∧ t.noise.acc.nextVolume = s.noise.acc.nextVolume ∧
    t.noise.metallic = s.noise.metallic
  smp : t.smp.acc.nextPeriod = s.smp.acc.nextPeriod ∧ t.smp.acc.nextVolume = s.smp.acc.nextVolume
  dsmp : t.dsmp.nextVolume = s.dsmp.nextVolume

theorem State.SamePending.refl (s : State) : s.SamePending s where
  p1 := ⟨rfl, rfl, rfl⟩
  p2 := ⟨rfl, rfl, rfl⟩
  tri := ⟨rfl, rfl⟩
  noise := ⟨rfl, rfl, rfl⟩
  smp := ⟨rfl, rfl⟩
  dsmp := rfl

/-- A GET writes nothing of another generator or of a filter (R236). -/
def State.SameBut (ch : Channel) (s t : State) : Prop :=
  (ch ≠ .p1 → t.p1 = s.p1) ∧ (ch ≠ .p2 → t.p2 = s.p2) ∧ (ch ≠ .tri → t.tri = s.tri) ∧
  (ch ≠ .noise → t.noise = s.noise) ∧ (ch ≠ .smp → t.smp = s.smp) ∧ (ch ≠ .dsmp → t.dsmp = s.dsmp) ∧
  t.f0 = s.f0 ∧ t.f1 = s.f1 ∧ t.f2 = s.f2

section
variable {c : Config} {s t : State}

theorem tick_frame {ch : Channel} {isr r : F32} (ht : tick c isr ch s = .ok (t, r)) :
    t.status = s.status ∧ s.SamePending t ∧ s.SameBut ch t ∧ t.results = s.results ∧ t.port = s.port := by
  have same := State.SamePending.refl s
  have ht := tick_ok ht
  cases ch
  · obtain ⟨g, h, rfl⟩ := ht
    exact ⟨rfl, { same with p1 := pulseGet_frame h }, by simp [State.SameBut], rfl, rfl⟩
  · obtain ⟨g, h, rfl⟩ := ht
    exact ⟨rfl, { same with p2 := pulseGet_frame h }, by simp [State.SameBut], rfl, rfl⟩
  · obtain ⟨g, h, rfl⟩ := ht
    exact ⟨rfl, { same with tri := triGet_frame h }, by simp [State.SameBut], rfl, rfl⟩
  · obtain ⟨g, h, rfl⟩ := ht
    exact ⟨rfl, { same with noise := noiseGet_frame h }, by simp [State.SameBut], rfl, rfl⟩
  · obtain ⟨g, h, rfl⟩ := ht
    exact ⟨rfl, { same with smp := smpGet_frame h }, by simp [State.SameBut], rfl, rfl⟩
  · obtain ⟨g, h, rfl⟩ := ht
    exact ⟨rfl, { same with dsmp := dsmpGet_frame h }, by simp [State.SameBut], rfl, rfl⟩

theorem getBody_frame {ch : Channel} (h : getBody c ch s = .ok t) :
    t.status = s.status ∧ s.SamePending t ∧ s.SameBut ch t ∧ (∃ r, t.results = s.results ++ [r]) ∧ t.port = s.port := by
  obtain ⟨isr, s', r, -, -, ht, rfl⟩ := getBody_ok h
  obtain ⟨hstatus, hpending, hbut, hresults, hport⟩ := tick_frame ht
  exact ⟨hstatus, { hpending with }, hbut, ⟨r, by rw [putResult_results, hresults]⟩, hport⟩

theorem mixBody_frame (h : mixBody c s = .ok t) :
    t.status = s.status ∧ s.SamePending t ∧ (∃ r, t.results = s.results ++ [r]) ∧ t.port = s.port := by
  obtain ⟨isr, p1, p2, tri, noise, smp, dsmp, o0, o1, o2, o3, o4, o5, m, s', y, -, -, h0, h1, h2, h3, h4, h5, -, hf,
    rfl⟩ := mixBody_ok h
  obtain ⟨f0, a, f1, b, f2, hf0, hf1, hf2, rfl⟩ := filterChain_ok hf
  obtain ⟨-, rfl⟩ := applyHighPass_ok hf0
  obtain ⟨-, rfl⟩ := applyHighPass_ok hf1
  obtain ⟨-, rfl⟩ := applyLowPass_ok hf2
  exact ⟨rfl,
    ⟨pulseGet_frame h0, pulseGet_frame h1, triGet_frame h2, noiseGet_frame h3, smpGet_frame h4, dsmpGet_frame h5⟩,
    ⟨_, rfl⟩, rfl⟩

/-- A command that ends without a fault has had its effect. -/
theorem commandBody_of_exec {i : Instr} (hs : s.faultValid = false) (h : exec i s = .next t)
    (ht : t.faultValid = false) : commandBody i s = .ok t := by
  obtain ⟨hv, -⟩ | ⟨-, h⟩ | ⟨-, e, -, rfl⟩ := exec_cases h
  · exact nomatch hs.symm.trans hv
  · exact h
  · exact nomatch ht

end

/-- Settles O50: a get writes PHASE, PERIOD, VOLUME, OUT, DUTY, LFSR, ACC, queue, history and CUR of its own generator,
and MIX besides the filters' memories. -/
theorem tickFrame : Obligations.TickFrame := by
  intro i s t hi hs h ht
  have hbody := commandBody_of_exec hs h ht
  have hframe : t.status = s.status ∧ s.SamePending t ∧ (∃ r, t.results = s.results ++ [r]) ∧ t.port = s.port ∧
      ∀ ch, i = .get ch → s.SameBut ch t := by
    obtain rfl | ⟨ch, rfl⟩ := hi
    · obtain ⟨hstatus, hpending, hresults, hport⟩ := mixBody_frame hbody
      exact ⟨hstatus, hpending, hresults, hport, nofun⟩
    · obtain ⟨hstatus, hpending, hbut, hresults, hport⟩ := getBody_frame hbody
      exact ⟨hstatus, hpending, hresults, hport, fun _ hch => Instr.get.inj hch ▸ hbut⟩
  obtain ⟨hstatus, hpending, hresults, hport, hbut⟩ := hframe
  obtain ⟨⟨hinit, -, hcause, hhdr⟩, hinvSr, hf0, hf1, hf2⟩ := status_eq_iff.mp hstatus
  obtain ⟨⟨p1p, p1v, p1d⟩, ⟨p2p, p2v, p2d⟩, htri, ⟨np, nv, hmetallic⟩, hsmp, hdsmp⟩ := hpending
  refine ⟨hresults, hport, hinit, hinvSr, hcause, hhdr, hbut, ?_, hdsmp, p1d, p2d, hmetallic, hf0, hf1, hf2⟩
  simp only [List.forall_mem_cons]
  exact ⟨⟨p1p, p1v⟩, ⟨p2p, p2v⟩, htri, ⟨np, nv⟩, hsmp, nofun⟩

/-! ## Writers of the status registers (R46) -/

@[simp] theorem writeNextPeriod_lfsr (ch : Channel) (p : F32) (s : State) :
    (writeNextPeriod ch p s).noise.lfsr = s.noise.lfsr := by cases ch <;> rfl
@[simp] theorem writeNextPeriod_metallic (ch : Channel) (p : F32) (s : State) :
    (writeNextPeriod ch p s).noise.metallic = s.noise.metallic := by cases ch <;> rfl
@[simp] theorem writeNextVolume_lfsr (ch : Channel) (v : F32) (s : State) :
    (writeNextVolume ch v s).noise.lfsr = s.noise.lfsr := by cases ch <;> rfl
@[simp] theorem writeNextVolume_metallic (ch : Channel) (v : F32) (s : State) :
    (writeNextVolume ch v s).noise.metallic = s.noise.metallic := by cases ch <;> rfl

@[simp] theorem writeNextPeriod_status (ch : Channel) (p : F32) (s : State) :
    (writeNextPeriod ch p s).status = s.status := by cases ch <;> rfl
@[simp] theorem writeNextVolume_status (ch : Channel) (v : F32) (s : State) :
    (writeNextVolume ch v s).status = s.status := by cases ch <;> rfl

/-- INIT writes the status registers, a MIX or a GET noise the LFSR, SETMETAL METALLIC, and no other command does. -/
theorem commandBody_writers {i : Instr} {s t : State} (h : commandBody i s = .ok t) :
    (t.status = s.status ∨ (∃ sr, i = .init sr) ∧ t.sideband = { s.sideband with initDone := true }) ∧
    (t.noise.lfsr = s.noise.lfsr ∨ i = .mix ∨ i = .get .noise) ∧
    (t.noise.metallic = s.noise.metallic ∨ ∃ b, i = .setmetal b) := by
  cases i with
  | init sr =>
    obtain ⟨isr, f0, f1, f2, -, -, -, -, rfl⟩ := initBody_ok h
    exact ⟨.inr ⟨⟨sr, rfl⟩, rfl⟩, .inl rfl, .inl rfl⟩
  | clear =>
    cases h
    exact ⟨.inl rfl, .inl rfl, .inl rfl⟩
  | mix =>
    obtain ⟨hstatus, hpending, -⟩ := mixBody_frame h
    obtain ⟨-, -, hmetallic⟩ := hpending.noise
    exact ⟨.inl hstatus, .inr (.inl rfl), .inl hmetallic⟩
  | get ch =>
    obtain ⟨hstatus, hpending, ⟨-, -, -, hnoise, -⟩, -⟩ := getBody_frame h
    obtain ⟨-, -, hmetallic⟩ := hpending.noise
    refine ⟨.inl hstatus, ?_, .inl hmetallic⟩
    by_cases hch : ch = .noise
    · exact .inr (.inr (hch ▸ rfl))
    · exact .inl (congrArg Noise.lfsr (hnoise hch))
  | setfreq ch hz =>
    obtain ⟨p, -, rfl⟩ := setfreqBody_ok h
    simp
  | setvol ch v =>
    obtain ⟨w, -, -, rfl⟩ := setvolBody_ok h
    simp
  | setduty ch e => obtain ⟨-, rfl | rfl⟩ := setdutyBody_ok h <;> exact ⟨.inl rfl, .inl rfl, .inl rfl⟩
  | setmetal b =>
    cases h
    exact ⟨.inl rfl, .inl rfl, .inr ⟨b, rfl⟩⟩
  | addsample x =>
    obtain ⟨q, -, -, rfl⟩ := addsampleBody_ok h
    exact ⟨.inl rfl, .inl rfl, .inl rfl⟩
  | adddirect p x =>
    obtain ⟨q, -, -, -, rfl⟩ := adddirectBody_ok h
    exact ⟨.inl rfl, .inl rfl, .inl rfl⟩

/-- Settles O51: the effect of a command writes what its rule names, and a fault the fault registers alone. -/
theorem statusRegistersChangeOnlyByTheirWriters : Obligations.StatusRegistersChangeOnlyByTheirWriters := by
  intro i s t h
  obtain ⟨-, rfl⟩ | ⟨-, h⟩ | ⟨hs, c, -, rfl⟩ := exec_cases h
  · simp
  · obtain ⟨hstatus, hlfsr, hmetallic⟩ := commandBody_writers h
    have hlfsr' := fun hne => hlfsr.resolve_left hne
    have hmetallic' := fun hne => hmetallic.resolve_left hne
    obtain hstatus | ⟨hi, hside⟩ := hstatus
    · obtain ⟨⟨hinit, hvalid, hcause, hhdr⟩, hinvSr, hf0, hf1, hf2⟩ := status_eq_iff.mp hstatus
      exact ⟨fun hd => hinit.trans hd, by simp [hinit, hinvSr, hf0, hf1, hf2], hlfsr', hmetallic',
        fun hv => hvalid.trans hv, by simp [hvalid, hcause, hhdr]⟩
    · simp only [State.sideband, Sideband.mk.injEq] at hside
      obtain ⟨hinit, hvalid, hcause, hhdr⟩ := hside
      exact ⟨fun _ => hinit, fun _ => hi, hlfsr', hmetallic', fun hv => hvalid.trans hv, by simp [hvalid, hcause, hhdr]⟩
  · simp [hs]

end Sys2Proof.Machine
end

section
/-! R49: each fixed constant is the binary32 value nearest to its decimal, PI to the real number (O60). -/

namespace Sys2Proof

/-- Each literal's pattern is its decimal, rounded once to nearest even (R12, R52). -/
theorem isRounding_binary32Literal (l : Literal) :
    F32.IsRounding (l.ratio.toRat * 2 ^ 149) (binary32Literal l) := by
  rw [← Machine.binary32_lit]
  change F32.IsRounding _ (F32.ofRatio l.ratio.neg l.ratio.num l.ratio.den)
  have h := F32.isRounding_ofRatio l.ratio.neg l.ratio.num (den := l.ratio.den) (by cases l <;> decide)
  convert h using 2
  unfold Ratio.toRat
  split <;> ring

theorem units_div_eq_value (x : F32) : (F32.units x : ℝ) / 2 ^ 149 = (NumFmt.binary32.value x : ℝ) := by
  change _ = (((F32.units x : ℚ) / 2 ^ 149 : ℚ) : ℝ)
  push_cast
  rfl

/-- Settles O60: the patterns are the roundings of the literals' decimals, and PI is nearest to decimals on both sides of
the real number. -/
theorem constantsAreNearestToLiterals : Obligations.ConstantsAreNearestToLiterals := by
  refine ⟨?_, rfl, fun r hr => ?_⟩
  · simp only [List.forall_mem_cons, List.not_mem_nil, false_imp_iff, implies_true, and_true]
    have rounds (l : Literal) {q : ℚ} (hq : l.ratio.toRat = q) :
        F32.IsRounding (q * 2 ^ 149) (binary32Literal l) := hq ▸ isRounding_binary32Literal l
    refine ⟨⟨rfl, rounds .volThreshold ?_⟩, ⟨rfl, rounds .clampHi ?_⟩, ⟨rfl, rounds .clampLo ?_⟩,
      ⟨rfl, rounds .directGain ?_⟩, ⟨rfl, rounds .weightTone ?_⟩, ⟨rfl, rounds .weightNoise ?_⟩,
      ⟨rfl, rounds .weightSample ?_⟩, ⟨rfl, rounds .weightSum ?_⟩, ⟨rfl, rounds .cutoff0 ?_⟩,
      ⟨rfl, rounds .cutoff1 ?_⟩, ⟨rfl, rounds .cutoff2 ?_⟩⟩ <;> norm_num [Literal.ratio, Ratio.toRat]
  · simp only [units_div_eq_value]
    exact piF32_nearest hr

end Sys2Proof
end

section
/-! The command port (20_memory.md R66 to R76): the byte form of words (O5), what a step reads from the port (O6, O7),
and that every command answers a next state (O8). -/

namespace Sys2Proof

/-! ## Words as bytes (R66) -/

/-- The bytes of a word, joined again, are the word. -/
theorem wordsOfBytes_wordToBytes_append (o : ByteOrder) (w : Word) (bs : List Byte) :
    wordsOfBytes o (wordToBytes o w ++ bs) = (w :: (wordsOfBytes o bs).1, (wordsOfBytes o bs).2) := by
  have join : w.extractLsb' 24 8 ++ w.extractLsb' 16 8 ++ w.extractLsb' 8 8 ++ w.extractLsb' 0 8 = w := by
    rw [BitVec.extractLsb'_append_extractLsb'_eq_extractLsb' (show 24 = 16 + 8 from rfl),
      BitVec.extractLsb'_append_extractLsb'_eq_extractLsb' (show 16 = 8 + 8 from rfl),
      BitVec.extractLsb'_append_extractLsb'_eq_extractLsb' (show 8 = 0 + 8 from rfl), BitVec.extractLsb'_eq_self]
  cases o <;> simpa [wordToBytes, wordsOfBytes, bytesToWord] using join

/-- Settles O5, by induction on the words. -/
theorem transportBytesRoundTrip : Obligations.TransportBytesRoundTrip := by
  refine ⟨fun o ws => ?_, rfl, rfl⟩
  induction ws with
  | nil => rfl
  | cons w ws ih => rw [List.flatMap_cons, wordsOfBytes_wordToBytes_append, ih]

/-! ## Decoding what the encoder writes (R80 to R84) -/

@[simp] theorem operandCount_headerOf (i : Instr) : operandCount (headerOf i) = (operandWords i).length := by
  cases i <;> exact operandCount_header _ _ _

/-- The header of a well-formed command is legal, and with the command's operand words it gives the command back. -/
theorem decodeCommand_headerOf {i : Instr} (hi : i.wellFormed = true) (rest : List Word) :
    decodeCommand (headerOf i) ((operandWords i ++ rest).getD 0 0#32) ((operandWords i ++ rest).getD 1 0#32) = .ok i := by
  cases i with
  | setduty ch d =>
    have hpulse : ch.isPulse = true := hi
    simp [decodeCommand, headerOf, operandWords, decodeOpcode, pulseChannel, noBool, hpulse, bind, Except.bind]
  | _ =>
    simp [decodeCommand, headerOf, operandWords, decodeOpcode, noChannel, anyChannel, noBool, bind, Except.bind]

theorem decode_encode_append {i : Instr} (hi : i.wellFormed = true) (rest : List Word) :
    decode (encode i ++ rest) = .ok (i, rest) := by
  rw [encode, List.cons_append, decode, operandCount_headerOf, decodeCommand_headerOf hi, List.drop_left]
  exact if_neg (by simp)

end Sys2Proof

namespace Sys2Proof.Machine

/-! ## A step (R67, R68, R70, R76) -/

theorem fetch_incomplete {h : Word} {ws : List Word} (hlen : ws.length < operandCount h) :
    fetch (h :: ws) = .incomplete := by
  simp [fetch, decode, hlen]

theorem step_of_decode {s : State} {i : Instr} {rest : List Word} (h : decode s.port = .ok (i, rest)) :
    step s = exec i { s with port := rest } := by
  simp [step, stepBy, fetch_of_decode h]

/-- Settles O6: the port offers nothing, or part of a command. -/
theorem noStepWithoutWholeCommand : Obligations.NoStepWithoutWholeCommand := by
  refine ⟨fun s hport => ?_, fun s h ws hport hlen => ?_⟩
  · simp [step, stepBy, hport, fetch_nil]
  · simp [step, stepBy, hport, fetch_incomplete hlen]

/-- Settles O7: the decoder reads the command at the head of the port back from its words. -/
theorem stepPerformsHeadCommand : Obligations.StepPerformsHeadCommand :=
  fun _ rest _ hi hport => step_of_decode (hport ▸ decode_encode_append hi rest)

/-- Settles O8: each arm of `exec` performs a body, and that answers a next state in every case (R264, R267). -/
theorem everyCommandCompletesInOneStep : Obligations.EveryCommandCompletesInOneStep :=
  fun i s => ⟨_, exec_eq_perform i s⟩

end Sys2Proof.Machine
end

section
/-! The queues for every parameter value, and the commands that enqueue (20_memory.md R65; O34). -/

namespace Sys2Proof.Machine

section
variable {α : Type} {c : Config} {q : List α}

theorem enqueue_of_lt (hq : q.length < c.qCap) (e : α) : enqueue c q e = .ok (q ++ [e]) := if_pos hq

theorem enqueue_grow_unlimited (hq : c.qCap ≤ q.length) (hc : c.overflowPolicy = .grow) (hl : c.qLimit = none)
    (e : α) : enqueue c q e = .ok (q ++ [e]) := by
  simp [enqueue, hq.not_gt, hc, hl]

theorem enqueue_grow_limited {l : Nat} (hq : c.qCap ≤ q.length) (hc : c.overflowPolicy = .grow)
    (hl : c.qLimit = some l) (e : α) :
    enqueue c q e = if l < q.length + 1 then .error .queueOverflow else .ok (q ++ [e]) := by
  simp only [enqueue, hq.not_gt, hc, hl, if_false]

theorem enqueue_dropOldest (hq : c.qCap ≤ q.length) (hc : c.overflowPolicy = .dropOldest) (e : α) :
    enqueue c q e = .ok (q.tail ++ [e]) := by
  simp [enqueue, hq.not_gt, hc]

end

section
variable {c : Config} {s : State} {p x : F32}

theorem addsampleBody_eq (hx : c.num.isFinite x = true) : addsampleBody c x s =
    enqueue c s.smp.queue x >>= fun q => .ok { s with smp := { s.smp with queue := q } } := by
  rw [addsampleBody, sampleOperand_ok.mpr ⟨hx, rfl⟩]
  rfl

theorem adddirectBody_eq (hp : positiveFinite c p = true) (hx : c.num.isFinite x = true) : adddirectBody c p x s =
    enqueue c s.dsmp.queue ⟨p, x⟩ >>= fun q => .ok { s with dsmp := { s.dsmp with queue := q } } := by
  rw [adddirectBody, directPeriodOperand_ok.mpr ⟨hp, rfl⟩, sampleOperand_ok.mpr ⟨hx, rfl⟩]
  rfl

end

/-- Settles O34: an enqueue by its cases, and each command stores what it answers or records the fault it raises. -/
theorem enqueueFollowsOverflowPolicy : Obligations.EnqueueFollowsOverflowPolicy := by
  refine ⟨fun α c q e => ⟨fun hq => enqueue_of_lt hq e, fun hq hgrow => ?_, fun hq hdrop => ?_⟩,
    fun c s p x hs hx => ⟨fun q hq => ?_, fun hq => ?_, fun hpos hfin => ?_⟩, rfl, rfl, rfl⟩
  · refine ⟨fun hl => enqueue_grow_unlimited hq hgrow hl e, fun l hl => ?_⟩
    rw [enqueue_grow_limited hq hgrow hl]
    exact ⟨fun hle => if_neg hle.not_gt, fun hlt => if_pos hlt⟩
  · refine ⟨enqueue_dropOldest hq hdrop e, fun hlen hcap => ?_⟩
    rw [List.length_append, List.length_tail, List.length_singleton]
    omega
  · exact perform_ok hs (by rw [addsampleBody_eq hx, hq]; rfl)
  · exact perform_error (c := .queueOverflow) hs (by rw [addsampleBody_eq hx, hq]; rfl)
  · have hp : positiveFinite c p = true := Bool.and_eq_true _ _ |>.mpr ⟨hpos, hfin⟩
    exact ⟨fun q hq => perform_ok hs (by rw [adddirectBody_eq hp hx, hq]; rfl),
      fun hq => perform_error (c := .queueOverflow) hs (by rw [adddirectBody_eq hp hx, hq]; rfl)⟩

end Sys2Proof.Machine
end

section
/-! A setter, CLEAR or INIT repeated on the state it made leaves that state (20_memory.md R69; O53). -/

namespace Sys2Proof.Machine

/-- No command's effect touches FAULT_VALID; only a fault does (R264). -/
theorem commandBody_faultValid {i : Instr} {s t : State} (h : commandBody i s = .ok t) :
    t.faultValid = s.faultValid := by
  obtain ⟨hstatus | ⟨-, hside⟩, -⟩ := commandBody_writers h
  · obtain ⟨⟨-, hvalid, -⟩, -⟩ := status_eq_iff.mp hstatus
    exact hvalid
  · exact congrArg Sideband.faultValid hside

/-! ## Each effect repeated -/

@[simp] theorem writeNextPeriod_twice (ch : Channel) (p : F32) (s : State) :
    writeNextPeriod ch p (writeNextPeriod ch p s) = writeNextPeriod ch p s := by cases ch <;> rfl

@[simp] theorem writeNextVolume_twice (ch : Channel) (v : F32) (s : State) :
    writeNextVolume ch v (writeNextVolume ch v s) = writeNextVolume ch v s := by cases ch <;> rfl

section
variable {c : Config} {s t : State}

theorem setfreqBody_twice {ch : Channel} {hz : F32} (h : setfreqBody c ch hz s = .ok t) :
    setfreqBody c ch hz t = .ok t := by
  obtain ⟨p, hp, rfl⟩ := setfreqBody_ok h
  exact bind_ok.mpr ⟨p, hp, by rw [writeNextPeriod_twice]⟩

theorem setvolBody_twice {ch : Channel} {v : F32} (h : setvolBody c ch v s = .ok t) :
    setvolBody c ch v t = .ok t := by
  obtain ⟨w, hv, hw, rfl⟩ := setvolBody_ok h
  exact bind_ok.mpr ⟨v, volumeOperand_ok.mpr ⟨hv, rfl⟩, bind_ok.mpr ⟨w, hw, by rw [writeNextVolume_twice]⟩⟩

theorem writeNextDuty_twice {ch : Channel} {d : F32} (h : writeNextDuty ch d s = .ok t) :
    writeNextDuty ch d t = .ok t := by
  cases ch <;> cases h <;> rfl

theorem setdutyBody_twice {ch : Channel} {d : F32} (h : setdutyBody c ch d s = .ok t) :
    setdutyBody c ch d t = .ok t := by
  unfold setdutyBody at h ⊢
  split at h
  · obtain ⟨e, he, h⟩ := bind_ok.mp h
    exact (if_pos ‹_›).trans (bind_ok.mpr ⟨e, he, writeNextDuty_twice h⟩)
  · exact nomatch h

/-- The registers INIT keeps are those it does not read, so the second INIT writes the same values. -/
theorem initBody_twice {sr : F32} (h : initBody c sr s = .ok t) : initBody c sr t = .ok t := by
  obtain ⟨isr, f0, f1, f2, hisr, h0, h1, h2, rfl⟩ := initBody_ok h
  exact bind_ok.mpr ⟨isr, hisr, bind_ok.mpr ⟨f0, h0, bind_ok.mpr ⟨f1, h1, bind_ok.mpr ⟨f2, h2, rfl⟩⟩⟩⟩

end

/-- A faulted core keeps its state, a served one its fault flag, so an effect that repeats makes the command repeat. -/
theorem exec_twice {i : Instr} {s t : State} (hbody : commandBody i s = .ok t → commandBody i t = .ok t)
    (h : exec i s = .next t) : exec i t = .next t := by
  obtain ⟨-, rfl⟩ | ⟨hs, hb⟩ | ⟨-, c, -, rfl⟩ := exec_cases h
  · exact h
  · exact (exec_eq_perform i t).trans (perform_ok ((commandBody_faultValid hb).trans hs) (hbody hb))
  · exact (exec_eq_perform i _).trans (perform_faulted rfl)

/-- Settles O53: what these commands write depends on the operand alone, or on registers they leave unchanged. -/
theorem settersClearAndInitAreIdempotent : Obligations.SettersClearAndInitAreIdempotent := by
  intro i s t hi
  refine exec_twice fun h => ?_
  obtain ⟨ch, x, rfl | rfl | rfl⟩ | ⟨b, rfl⟩ | rfl | ⟨sr, rfl⟩ := hi
  · exact setfreqBody_twice h
  · exact setvolBody_twice h
  · exact setdutyBody_twice h
  · cases h; rfl
  · cases h; rfl
  · exact initBody_twice h

end Sys2Proof.Machine
end

section
/-! Active parameters change at period boundaries only (20_memory.md R71, 41_phase_accumulator.md R111, 42_resampling.md
R171; O22). -/

namespace Sys2Proof.Machine

/-! ## Gets that do not cross (R110, R170) -/

section
variable {isr o : F32} {n : Nat}

/-- An elapsed-period count means that the next UPDATE crosses. -/
theorem crosses_of_phaseStep {a : Phasor} {p ph : F32} (hp : a.period = some p)
    (h : phaseStep Config.core isr a.phase p = .ok (ph, some n)) : a.crosses isr = true := by
  obtain ⟨rfl, -, ⟨-, hnone⟩ | ⟨hge, -⟩⟩ := phaseStep_ok h
  · exact nomatch hnone
  · rw [Phasor.crosses, hp]
    exact hge

/-- Without a crossing an UPDATE advances PHASE and nothing else. -/
theorem phasorUpdate_uncrossed {a b : Phasor} (hstill : a.crosses isr = false)
    (h : phasorUpdate Config.core isr a = .ok (b, n)) : n = 0 ∧ b = { a with phase := F32.add a.phase isr } := by
  obtain ⟨p, hp, ⟨-, hn, hb⟩ | ⟨hs, -⟩⟩ := phasorUpdate_ok h
  · exact ⟨hn, hb⟩
  · exact nomatch hstill.symm.trans (crosses_of_phaseStep hp hs)

theorem pulseUpdate_uncrossed {g t : Pulse} (hstill : g.acc.crosses isr = false)
    (h : pulseUpdate Config.core isr g = .ok (t, n)) :
    t = { g with acc := { g.acc with phase := F32.add g.acc.phase isr } } := by
  obtain ⟨p, hp, ⟨-, -, ht⟩ | ⟨hs, -⟩⟩ := pulseUpdate_ok h
  · exact ht
  · exact nomatch hstill.symm.trans (crosses_of_phaseStep hp hs)

theorem directLoop_of_not_lt {c : Config} {l : DirectLoop} (h : c.num.lt (l.cur.period isr) l.ph = false) (room : Nat) :
    directLoop c isr room l = .ok l := by
  cases room <;> simp [directLoop, h]

/-- Without an iteration of its loop a DSMP_UPDATE advances PHASE and nothing else. -/
theorem dsmpUpdate_uncrossed {g t : Dsmp} {s : F32} (hstill : g.crosses isr = false)
    (h : dsmpUpdate Config.core isr g = .ok (t, n, s)) : n = 0 ∧ t = { g with phase := F32.add g.phase isr } := by
  obtain ⟨l, -, hl, hn, -, hcases⟩ := dsmpUpdate_ok h
  rw [directLoop_of_not_lt hstill] at hl
  cases hl
  obtain ⟨-, rfl⟩ | ⟨hne, -⟩ := hcases
  · exact ⟨hn, rfl⟩
  · exact absurd hn hne

theorem pulseGet_uncrossed {g t : Pulse} (hstill : g.acc.crosses isr = false)
    (h : pulseGet Config.core isr g = .ok (t, o)) :
    t.acc.period = g.acc.period ∧ t.acc.volume = g.acc.volume ∧ t.duty = g.duty := by
  obtain ⟨g', n, p, d, hu, -, -, -, rfl⟩ := pulseGet_ok h
  obtain rfl := pulseUpdate_uncrossed hstill hu
  exact ⟨rfl, rfl, rfl⟩

theorem triGet_uncrossed {a b : Phasor} (hstill : a.crosses isr = false) (h : triGet Config.core isr a = .ok (b, o)) :
    b.period = a.period ∧ b.volume = a.volume := by
  obtain ⟨a', n, p, t, y, hu, -, -, -, -, rfl⟩ := triGet_ok h
  obtain ⟨-, rfl⟩ := phasorUpdate_uncrossed hstill hu
  exact ⟨rfl, rfl⟩

theorem noiseGet_uncrossed {g t : Noise} (hstill : g.acc.crosses isr = false)
    (h : noiseGet Config.core isr g = .ok (t, o)) :
    t.acc.period = g.acc.period ∧ t.acc.volume = g.acc.volume ∧ t.lfsr = g.lfsr := by
  obtain ⟨a, n, hu, hcases⟩ := noiseGet_ok h
  obtain ⟨hn, rfl⟩ := phasorUpdate_uncrossed hstill hu
  obtain ⟨-, rfl, -⟩ | ⟨hne, -⟩ := hcases
  · exact ⟨rfl, rfl, rfl⟩
  · exact absurd hn hne

theorem smpGet_uncrossed {g t : Smp} (hstill : g.acc.crosses isr = false) (h : smpGet Config.core isr g = .ok (t, o)) :
    t.acc.period = g.acc.period ∧ t.acc.volume = g.acc.volume := by
  obtain ⟨a, n, hu, hcases⟩ := smpGet_ok h
  obtain ⟨rfl, rfl⟩ := phasorUpdate_uncrossed hstill hu
  obtain ⟨hn, -⟩ | ⟨hn, -⟩ | ⟨-, h⟩ := hcases
  · exact nomatch hn
  · exact nomatch hn
  · obtain ⟨-, rfl⟩ := smpInterpolate_ok h
    exact ⟨rfl, rfl⟩

theorem dsmpGet_uncrossed {g t : Dsmp} (hstill : g.crosses isr = false) (h : dsmpGet Config.core isr g = .ok (t, o)) :
    t.volume = g.volume ∧ t.cur = g.cur := by
  obtain ⟨g', n, s, hu, hcases⟩ := dsmpGet_ok h
  obtain ⟨rfl, rfl⟩ := dsmpUpdate_uncrossed hstill hu
  obtain ⟨hn, -⟩ | ⟨hn, -⟩ | ⟨-, h⟩ := hcases
  · exact nomatch hn
  · exact nomatch hn
  · obtain ⟨-, rfl⟩ := dsmpInterpolate_ok h
    exact ⟨rfl, rfl⟩

end

/-! ## Commands -/

/-- `t` has the active parameters of a generator of `s`: PERIOD, VOLUME, DUTY, LFSR, and CUR (R71, R111 to R113,
R171). -/
def State.SameActive (s t : State) : Channel → Prop
  | .p1 => t.p1.acc.period = s.p1.acc.period ∧ t.p1.acc.volume = s.p1.acc.volume ∧ t.p1.duty = s.p1.duty
  | .p2 => t.p2.acc.period = s.p2.acc.period ∧ t.p2.acc.volume = s.p2.acc.volume ∧ t.p2.duty = s.p2.duty
  | .tri => t.tri.period = s.tri.period ∧ t.tri.volume = s.tri.volume
  | .noise => t.noise.acc.period = s.noise.acc.period ∧ t.noise.acc.volume = s.noise.acc.volume ∧
      t.noise.lfsr = s.noise.lfsr
  | .smp => t.smp.acc.period = s.smp.acc.period ∧ t.smp.acc.volume = s.smp.acc.volume
  | .dsmp => t.dsmp.volume = s.dsmp.volume ∧ t.dsmp.cur = s.dsmp.cur

theorem State.SameActive.refl (s : State) (ch : Channel) : s.SameActive s ch := by cases ch <;> simp [State.SameActive]

theorem writeNextPeriod_sameActive (ch ch' : Channel) (p : F32) (s : State) :
    s.SameActive (writeNextPeriod ch p s) ch' := by
  cases ch <;> exact .refl s ch'

theorem writeNextVolume_sameActive (ch ch' : Channel) (v : F32) (s : State) :
    s.SameActive (writeNextVolume ch v s) ch' := by
  cases ch <;> exact .refl s ch'

section
variable {s t : State} {ch : Channel}

theorem putResult_sameActive {r : F32} : s.SameActive (putResult r t) ch ↔ s.SameActive t ch := by
  cases ch <;> rfl

theorem sameActive_of_sameBut {ch' : Channel} (hch : ch' ≠ ch) (h : s.SameBut ch' t) : s.SameActive t ch := by
  obtain ⟨hp1, hp2, htri, hnoise, hsmp, hdsmp, -⟩ := h
  cases ch
  · simp [State.SameActive, hp1 hch]
  · simp [State.SameActive, hp2 hch]
  · simp [State.SameActive, htri hch]
  · simp [State.SameActive, hnoise hch]
  · simp [State.SameActive, hsmp hch]
  · simp [State.SameActive, hdsmp hch]

/-- The get of a generator that does not cross leaves its active parameters. -/
theorem tick_sameActive {isr r : F32} (hstill : s.crosses isr ch = false)
    (h : tick Config.core isr ch s = .ok (t, r)) : s.SameActive t ch := by
  have hget := tick_ok h
  cases ch <;> obtain ⟨g, hg, rfl⟩ := hget
  · exact pulseGet_uncrossed hstill hg
  · exact pulseGet_uncrossed hstill hg
  · exact triGet_uncrossed hstill hg
  · exact noiseGet_uncrossed hstill hg
  · exact smpGet_uncrossed hstill hg
  · exact dsmpGet_uncrossed hstill hg

theorem getBody_sameActive {ch' : Channel} (hstill : ∀ isr, s.invSr = some isr → s.crosses isr ch = false)
    (h : getBody Config.core ch' s = .ok t) : s.SameActive t ch := by
  by_cases hch : ch' = ch
  · obtain ⟨isr, s', r, -, hisr, ht, rfl⟩ := getBody_ok h
    subst hch
    exact putResult_sameActive.mpr (tick_sameActive (hstill isr hisr) ht)
  · obtain ⟨-, -, hbut, -⟩ := getBody_frame h
    exact sameActive_of_sameBut hch hbut

theorem mixBody_sameActive (hstill : ∀ isr, s.invSr = some isr → s.crosses isr ch = false)
    (h : mixBody Config.core s = .ok t) : s.SameActive t ch := by
  obtain ⟨isr, p1, p2, tri, noise, smp, dsmp, o0, o1, o2, o3, o4, o5, m, s', y, -, hisr, h0, h1, h2, h3, h4, h5, -, hf,
    rfl⟩ := mixBody_ok h
  obtain ⟨f0, a, f1, b, f2, -, -, -, rfl⟩ := filterChain_ok hf
  have hstill := hstill isr hisr
  cases ch
  · exact pulseGet_uncrossed hstill h0
  · exact pulseGet_uncrossed hstill h1
  · exact triGet_uncrossed hstill h2
  · exact noiseGet_uncrossed hstill h3
  · exact smpGet_uncrossed hstill h4
  · exact dsmpGet_uncrossed hstill h5

theorem commandBody_sameActive {i : Instr} (hinit : ∀ sr, i ≠ .init sr) (hclear : i ≠ .clear)
    (hstill : ∀ isr, s.invSr = some isr → s.crosses isr ch = false) (h : commandBody i s = .ok t) :
    s.SameActive t ch := by
  cases i with
  | init sr => exact absurd rfl (hinit sr)
  | clear => exact absurd rfl hclear
  | mix => exact mixBody_sameActive hstill h
  | get ch' => exact getBody_sameActive hstill h
  | setfreq ch' hz =>
    obtain ⟨p, -, rfl⟩ := setfreqBody_ok h
    exact writeNextPeriod_sameActive ..
  | setvol ch' v =>
    obtain ⟨w, -, -, rfl⟩ := setvolBody_ok h
    exact writeNextVolume_sameActive ..
  | setduty ch' e =>
    obtain ⟨-, rfl | rfl⟩ := setdutyBody_ok h <;> exact .refl s ch
  | setmetal b =>
    cases h
    exact .refl s ch
  | addsample x =>
    obtain ⟨q, -, -, rfl⟩ := addsampleBody_ok h
    exact .refl s ch
  | adddirect p x =>
    obtain ⟨q, -, -, -, rfl⟩ := adddirectBody_ok h
    exact .refl s ch

theorem exec_sameActive {i : Instr} (hinit : ∀ sr, i ≠ .init sr) (hclear : i ≠ .clear) (h : exec i s = .next t)
    (hstill : ∀ isr, s.invSr = some isr → s.crosses isr ch = false) : s.SameActive t ch := by
  obtain ⟨-, rfl⟩ | ⟨-, h⟩ | ⟨-, c, -, rfl⟩ := exec_cases h
  · exact .refl t ch
  · exact commandBody_sameActive hinit hclear hstill h
  · exact .refl s ch

end

/-- Settles O22: CLEAR writes no active parameter but CUR, and of the other commands only a tick that crosses commits. -/
theorem activeParametersChangeOnlyAtCrossings : Obligations.ActiveParametersChangeOnlyAtCrossings := by
  intro i s t hinit h
  by_cases hclear : i = .clear
  · subst hclear
    obtain ⟨-, rfl⟩ | ⟨-, h⟩ | ⟨-, c, -, rfl⟩ := exec_cases h
    · simp
    · cases h
      simp
    · simp
  · have same {ch : Channel} := exec_sameActive (ch := ch) hinit hclear h
    exact ⟨same, same, same, same, same, fun hstill => ⟨(same hstill).1, fun _ => (same hstill).2⟩⟩

end Sys2Proof.Machine
end

section
/-! The encoding (30_encoding.md): the decoder and the encoder are inverse (O1), the headers the match and mask table
selects (O2), the illegal headers (O3), and the worked encodings (O4). -/

namespace Sys2Proof

/-! ## The four fields are the whole header (R80) -/

theorem append_headerFields (h : Word) :
    headerOp h ++ headerCh h ++ headerRsv h ++ BitVec.ofBool (headerB h) = h := by
  have bit : BitVec.ofBool (headerB h) = h.extractLsb' 0 1 := BitVec.eq_of_getLsbD_eq fun i hi => by
    obtain rfl : i = 0 := by omega
    simp [headerB]
  rw [bit, headerOp, headerCh, headerRsv,
    BitVec.extractLsb'_append_extractLsb'_eq_extractLsb' (show 28 = 25 + 3 from rfl),
    BitVec.extractLsb'_append_extractLsb'_eq_extractLsb' (show 25 = 1 + 24 from rfl),
    BitVec.extractLsb'_append_extractLsb'_eq_extractLsb' (show 1 = 0 + 1 from rfl), BitVec.extractLsb'_eq_self]

theorem eq_iff_headerFields {h h' : Word} : h = h' ↔
    headerOp h = headerOp h' ∧ headerCh h = headerCh h' ∧ headerRsv h = headerRsv h' ∧ headerB h = headerB h' := by
  refine ⟨fun e => e ▸ ⟨rfl, rfl, rfl, rfl⟩, fun ⟨hop, hch, hrsv, hb⟩ => ?_⟩
  rw [← append_headerFields h, ← append_headerFields h', hop, hch, hrsv, hb]

theorem header_eq_iff {op : Opcode} {ch : BitVec 3} {b : Bool} {h : Word} : header op ch b = h ↔
    headerOp h = op.code ∧ headerCh h = ch ∧ headerRsv h = 0#24 ∧ headerB h = b := by
  rw [eq_comm, eq_iff_headerFields, headerOp_header, headerCh_header, headerRsv_header, headerB_header]

theorem code_injective : Function.Injective Opcode.code := fun op op' h =>
  Option.some.inj (by rw [← ofCode_code op, h, ofCode_code])

/-! ## The checks of a header (R86 items 2, 3, 4 and 6) -/

section
variable {h : Word}

theorem noChannel_ok {u : Unit} : noChannel h = .ok u ↔ headerCh h = 0#3 := by
  unfold noChannel
  split <;> simp [*]

theorem noBool_ok {u : Unit} : noBool h = .ok u ↔ headerB h = false := by
  unfold noBool
  split <;> simp [*]

theorem ofTag_eq_some_iff {t : BitVec 3} {ch : Channel} : Channel.ofTag t = some ch ↔ t = ch.tag :=
  ⟨ofTag_eq_some, fun e => e ▸ ofTag_tag ch⟩

theorem anyChannel_ok {ch : Channel} : anyChannel h = .ok ch ↔ headerCh h = ch.tag := by
  rw [← ofTag_eq_some_iff]
  unfold anyChannel
  split <;> simp [*]

theorem pulseChannel_ok {ch : Channel} : pulseChannel h = .ok ch ↔ headerCh h = ch.tag ∧ ch.isPulse = true := by
  rw [← ofTag_eq_some_iff]
  unfold pulseChannel
  cases Channel.ofTag (headerCh h) with
  | none => simp
  | some c => cases hc : c.isPulse <;> simp [hc] <;> exact fun e => e ▸ hc

end

/-! ## What the decoder answers (R80 to R84, R88) -/

open Machine (bind_ok)

section
variable {h a b : Word} {i : Instr}

theorem decodeOpcode_ok {op : Opcode} (hi : decodeOpcode op h a b = .ok i) :
    i.wellFormed = true ∧ headerOf i = header op (headerCh h) (headerB h) ∧ operandWords i <+: [a, b] := by
  cases op with
  | init | clear | mix | addsample | adddirect =>
    simp only [decodeOpcode, bind_ok, noChannel_ok, noBool_ok, Except.ok.injEq] at hi
    obtain ⟨_, hch, _, hb, rfl⟩ := hi
    simp [Instr.wellFormed, headerOf, operandWords, hch, hb]
  | get | setfreq | setvol =>
    simp only [decodeOpcode, bind_ok, anyChannel_ok, noBool_ok, Except.ok.injEq] at hi
    obtain ⟨_, hch, _, hb, rfl⟩ := hi
    simp [Instr.wellFormed, headerOf, operandWords, hch, hb]
  | setduty =>
    simp only [decodeOpcode, bind_ok, pulseChannel_ok, noBool_ok, Except.ok.injEq] at hi
    obtain ⟨_, ⟨hch, hpulse⟩, _, hb, rfl⟩ := hi
    simp [Instr.wellFormed, headerOf, operandWords, hch, hb, hpulse]
  | setmetal =>
    simp only [decodeOpcode, bind_ok, noChannel_ok, Except.ok.injEq] at hi
    obtain ⟨_, hch, rfl⟩ := hi
    simp [Instr.wellFormed, headerOf, operandWords, hch]

/-- A header with two operand words decodes to the well-formed command whose header it is and whose operands they begin
with, and to no other. -/
theorem decodeCommand_ok :
    decodeCommand h a b = .ok i ↔ i.wellFormed = true ∧ headerOf i = h ∧ operandWords i <+: [a, b] := by
  constructor
  · intro hi
    unfold decodeCommand at hi
    split at hi
    · rename_i hrsv
      split at hi
      · rename_i op hop
        obtain ⟨hwf, hhdr, hops⟩ := decodeOpcode_ok hi
        exact ⟨hwf, hhdr.trans (header_eq_iff.mpr ⟨ofCode_eq_some hop, rfl, hrsv, rfl⟩), hops⟩
      · exact nomatch hi
    · exact nomatch hi
  · rintro ⟨hwf, rfl, rest, hops⟩
    simpa [hops] using decodeCommand_headerOf hwf rest

end

/-! ## The command at the head of the port (O1) -/

/-- Where enough words stand, the operand words the decoder reads with a default are words that stand there. -/
theorem isPrefix_of_isPrefix_getD {l ws : List Word} (hl : l <+: [ws.getD 0 0#32, ws.getD 1 0#32])
    (hlen : l.length ≤ ws.length) : l <+: ws := by
  have htake : ws.take 2 <+: [ws.getD 0 0#32, ws.getD 1 0#32] := by rcases ws with _ | ⟨x, _ | ⟨y, ws⟩⟩ <;> simp
  have htwo : l.length ≤ 2 := hl.length_le
  exact (List.prefix_of_prefix_length_le hl htake (by simp [htwo, hlen])).trans (List.take_prefix 2 ws)

theorem decode_cons_ok {h : Word} {ws rest : List Word} {i : Instr} : decode (h :: ws) = .ok (i, rest) ↔
    operandCount h ≤ ws.length ∧ decodeCommand h (ws.getD 0 0#32) (ws.getD 1 0#32) = .ok i ∧
      ws.drop (operandCount h) = rest := by
  by_cases hlen : ws.length < operandCount h
  · exact iff_of_false (by simp [decode, hlen]) fun ⟨hle, _⟩ => hle.not_gt hlen
  · cases hd : decodeCommand h (ws.getD 0 0#32) (ws.getD 1 0#32) <;>
      simp [decode, hlen, hd, not_lt.mp hlen, -List.getD_eq_getElem?_getD]

/-- Settles O1: a decoded header is the command's own, and the operand words read are the words that stand there. -/
theorem decodeIsInverseOfEncode : Obligations.DecodeIsInverseOfEncode := by
  refine fun i ws rest => ⟨fun h => ?_, fun ⟨hwf, hws⟩ => hws ▸ decode_encode_append hwf rest⟩
  cases ws with
  | nil => exact nomatch h
  | cons hd ws =>
    obtain ⟨hlen, hi, rfl⟩ := decode_cons_ok.mp h
    obtain ⟨hwf, rfl, hops⟩ := decodeCommand_ok.mp hi
    rw [operandCount_headerOf] at hlen ⊢
    have hws := List.prefix_iff_eq_append.mp (isPrefix_of_isPrefix_getD hops hlen)
    exact ⟨hwf, congrArg (headerOf i :: ·) hws.symm⟩

/-! ## Legal headers (R84, R85) -/

/-- The values of CH and B that a header of this opcode may have (R84). -/
def Opcode.allows (op : Opcode) (ch : BitVec 3) (b : Bool) : Bool :=
  match op with
  | .init | .clear | .mix | .addsample | .adddirect => decide (ch = 0#3) && !b
  | .get | .setfreq | .setvol => decide (ch.toNat ≤ 5) && !b
  | .setduty => decide (ch.toNat ≤ 1) && !b
  | .setmetal => decide (ch = 0#3)

/-- A legal header of opcode `op`, field by field. -/
def LegalHeader (op : Opcode) (h : Word) : Prop :=
  headerOp h = op.code ∧ headerRsv h = 0#24 ∧ op.allows (headerCh h) (headerB h) = true

theorem exists_tag_of_le_five {t : BitVec 3} (h : t.toNat ≤ 5) : ∃ ch : Channel, t = ch.tag := by
  have : ∀ t : BitVec 3, t.toNat ≤ 5 → (Channel.ofTag t).isSome = true := by decide
  obtain ⟨ch, hch⟩ := Option.isSome_iff_exists.mp (this t h)
  exact ⟨ch, ofTag_eq_some hch⟩

@[simp] theorem tag_le_five (ch : Channel) : ch.tag.toNat ≤ 5 := by cases ch <;> decide

@[simp] theorem tag_le_one_iff {ch : Channel} : ch.tag.toNat ≤ 1 ↔ ch.isPulse = true := by cases ch <;> decide

theorem legalHeader_headerOf {i : Instr} (hi : i.wellFormed = true) : LegalHeader i.opcode (headerOf i) := by
  cases i with
  | setduty ch d =>
    have hpulse : ch.isPulse = true := hi
    simp [LegalHeader, headerOf, Instr.opcode, Opcode.allows, hpulse]
  | _ => simp [LegalHeader, headerOf, Instr.opcode, Opcode.allows]

theorem decodeOpcode_of_allows {op : Opcode} {h : Word} (hval : op.allows (headerCh h) (headerB h) = true) (a b : F32) :
    ∃ i, decodeOpcode op h a b = .ok i ∧ i.opcode = op := by
  cases op with
  | init | clear | mix | addsample | adddirect =>
    simp only [Opcode.allows, Bool.and_eq_true, decide_eq_true_eq, Bool.not_eq_true'] at hval
    simp [decodeOpcode, bind_ok, noChannel_ok, noBool_ok, hval, Instr.opcode]
  | get | setfreq | setvol =>
    simp only [Opcode.allows, Bool.and_eq_true, decide_eq_true_eq, Bool.not_eq_true'] at hval
    obtain ⟨ch, hch⟩ := exists_tag_of_le_five hval.1
    exact ⟨_, bind_ok.mpr ⟨ch, anyChannel_ok.mpr hch, bind_ok.mpr ⟨(), noBool_ok.mpr hval.2, rfl⟩⟩, rfl⟩
  | setduty =>
    simp only [Opcode.allows, Bool.and_eq_true, decide_eq_true_eq, Bool.not_eq_true'] at hval
    obtain ⟨ch, hch⟩ := exists_tag_of_le_five (hval.1.trans (by decide))
    have hpulse : ch.isPulse = true := tag_le_one_iff.mp (hch ▸ hval.1)
    exact ⟨_, bind_ok.mpr ⟨ch, pulseChannel_ok.mpr ⟨hch, hpulse⟩, bind_ok.mpr ⟨(), noBool_ok.mpr hval.2, rfl⟩⟩, rfl⟩
  | setmetal =>
    simp only [Opcode.allows, decide_eq_true_eq] at hval
    exact ⟨_, bind_ok.mpr ⟨(), noChannel_ok.mpr hval, rfl⟩, rfl⟩

theorem legalHeader_iff {op : Opcode} {h : Word} (a b : F32) :
    LegalHeader op h ↔ ∃ i, decodeCommand h a b = .ok i ∧ i.opcode = op := by
  constructor
  · rintro ⟨hop, hrsv, hval⟩
    simpa [decodeCommand, hrsv, hop] using decodeOpcode_of_allows hval a b
  · rintro ⟨i, hi, rfl⟩
    obtain ⟨hwf, rfl, -⟩ := decodeCommand_ok.mp hi
    exact legalHeader_headerOf hwf

/-! ## Match and mask (R85; O2) -/

theorem mask_eq_iff {h m p : Word} : h &&& m = p ↔
    headerOp h &&& headerOp m = headerOp p ∧ headerCh h &&& headerCh m = headerCh p ∧
      headerRsv h &&& headerRsv m = headerRsv p ∧ (headerB h && headerB m) = headerB p := by
  simp only [eq_iff_headerFields, headerOp, headerCh, headerRsv, headerB, BitVec.extractLsb'_and, BitVec.getLsbD_and]

/-- Every row requires its opcode and RSV = 0; in CH and B its mask and limit leave the values of R84. -/
theorem opcodeRows_fields : ∀ r ∈ opcodeRows, r.pattern = header r.opcode 0#3 false ∧
    headerOp r.mask = BitVec.allOnes 4 ∧ headerRsv r.mask = BitVec.allOnes 24 ∧
    ∀ ch b, r.opcode.allows ch b =
      (decide (ch &&& headerCh r.mask = 0#3) && !(b && headerB r.mask) &&
        (!r.channelLimit || decide (ch.toNat ≤ 5))) := by
  decide +kernel

theorem selects_iff {r : OpcodeRow} (hr : r ∈ opcodeRows) {h : Word} : r.selects h = true ↔ LegalHeader r.opcode h := by
  obtain ⟨hpat, hop, hrsv, hval⟩ := opcodeRows_fields r hr
  simp only [OpcodeRow.selects, LegalHeader, hpat, hval, hop, hrsv, mask_eq_iff, headerOp_header, headerCh_header,
    headerRsv_header, headerB_header, BitVec.and_allOnes, Bool.and_eq_true, decide_eq_true_eq, Bool.not_eq_true']
  tauto

theorem exists_row (op : Opcode) : ∃ r ∈ opcodeRows, r.opcode = op := by cases op <;> simp [opcodeRows]

theorem row_eq_of_opcode_eq : ∀ r ∈ opcodeRows, ∀ r' ∈ opcodeRows, r.opcode = r'.opcode → r = r' := by decide

/-- Settles O2: a row selects the legal headers of its opcode, and a header has one opcode. -/
theorem headerLegalIffOneTableRowSelects : Obligations.HeaderLegalIffOneTableRowSelects := by
  refine fun h a b => ⟨fun i hi => ?_, fun r hr hsel => ?_, fun r hr r' hr' hsel hsel' => ?_⟩
  · obtain ⟨r, hr, hop⟩ := exists_row i.opcode
    exact ⟨r, hr, hop, (selects_iff hr).mpr ((legalHeader_iff a b).mpr ⟨i, hi, hop.symm⟩)⟩
  · exact (legalHeader_iff a b).mp ((selects_iff hr).mp hsel)
  · obtain ⟨hop, -, -⟩ := (selects_iff hr).mp hsel
    obtain ⟨hop', -, -⟩ := (selects_iff hr').mp hsel'
    exact row_eq_of_opcode_eq r hr r' hr' (code_injective (hop.symm.trans hop'))

/-! ## Illegal headers (R86; O3) -/

/-- The six items of R86. -/
def IllegalHeader (h : Word) : Prop :=
  let op := (headerOp h).toNat
  let ch := (headerCh h).toNat
  (op = 0 ∨ 0xB ≤ op) ∨
  ((op = 4 ∨ op = 5 ∨ op = 6) ∧ (ch = 6 ∨ ch = 7)) ∨
  (op = 7 ∧ ch ≠ 0 ∧ ch ≠ 1) ∨
  ((op = 1 ∨ op = 2 ∨ op = 3 ∨ op = 8 ∨ op = 9 ∨ op = 0xA) ∧ ch ≠ 0) ∨
  headerRsv h ≠ 0#24 ∨
  (headerB h = true ∧ op ≠ 8)

theorem ofCode_eq_none_iff (c : BitVec 4) : Opcode.ofCode c = none ↔ c.toNat = 0 ∨ 0xB ≤ c.toNat := by
  revert c
  decide

/-- What is left of the six items once the opcode is known to be no reserved one. -/
theorem illegalHeader_of_code {op : Opcode} {h : Word} (hop : headerOp h = op.code) :
    IllegalHeader h ↔ headerRsv h ≠ 0#24 ∨ op.allows (headerCh h) (headerB h) = false := by
  have hch : (headerCh h).toNat < 8 := (headerCh h).isLt
  cases op with
  | init | clear | mix | addsample | adddirect =>
    simp [IllegalHeader, hop, Opcode.code, Opcode.allows, BitVec.toNat_eq]
    tauto
  | get | setfreq | setvol =>
    have hreserved : (headerCh h).toNat ≤ 5 ↔ ¬ ((headerCh h).toNat = 6 ∨ (headerCh h).toNat = 7) := by omega
    simp [IllegalHeader, hop, Opcode.code, Opcode.allows, hreserved]
    tauto
  | setduty =>
    have hpulse : (headerCh h).toNat ≤ 1 ↔ ¬ ((headerCh h).toNat ≠ 0 ∧ (headerCh h).toNat ≠ 1) := by omega
    simp [IllegalHeader, hop, Opcode.code, Opcode.allows, hpulse]
    tauto
  | setmetal =>
    simp [IllegalHeader, hop, Opcode.code, Opcode.allows, BitVec.toNat_eq]
    tauto

theorem illegalHeader_iff {h : Word} : IllegalHeader h ↔ ∀ op, ¬ LegalHeader op h := by
  cases hcode : Opcode.ofCode (headerOp h) with
  | none =>
    refine ⟨fun _ op hlegal => ?_, fun _ => .inl ((ofCode_eq_none_iff _).mp hcode)⟩
    rw [hlegal.1, ofCode_code] at hcode
    exact nomatch hcode
  | some op =>
    have hop := ofCode_eq_some hcode
    rw [illegalHeader_of_code hop]
    refine ⟨fun hill op' ⟨hop', hrsv, hval⟩ => ?_, fun hnone => ?_⟩
    · obtain rfl := code_injective (hop'.symm.trans hop)
      simp [hrsv, hval] at hill
    · exact or_iff_not_imp_left.mpr fun hrsv =>
        Bool.eq_false_iff.mpr fun hval => hnone op ⟨hop, not_not.mp hrsv, hval⟩

theorem decode_cons_error {h : Word} {ws : List Word} {why : Illegal} (hlen : operandCount h ≤ ws.length)
    (hwhy : decodeCommand h (ws.getD 0 0#32) (ws.getD 1 0#32) = .error why) :
    decode (h :: ws) = .error (.illegal h why (ws.drop (operandCount h))) := by
  rw [decode, if_neg (by omega), hwhy]

theorem step_of_illegal {s : Machine.State} {h : Word} {why : Illegal} {rest : List Word}
    (hd : decode s.port = .error (.illegal h why rest)) (hs : s.faultValid = false) :
    Machine.step s = .next (Machine.takeFault .illegalCommand h { s with port := rest }) := by
  simp [Machine.step, Machine.stepBy, Machine.fetch, hd, Machine.performIllegal, Machine.perform, hs]

/-- Settles O3: a header of the six items has no legal opcode and decodes to nothing; any other decodes, to a command
with that header. -/
theorem illegalHeadersAreTheSixItems : Obligations.IllegalHeadersAreTheSixItems := by
  intro s h ws hport hlen hs
  change (IllegalHeader h → _) ∧ (¬ IllegalHeader h → _)
  rw [hport]
  refine ⟨fun hill => ?_, fun hlegal => ?_⟩
  · cases hd : decodeCommand h (ws.getD 0 0#32) (ws.getD 1 0#32) with
    | ok i => exact absurd ((legalHeader_iff _ _).mpr ⟨i, hd, rfl⟩) (illegalHeader_iff.mp hill i.opcode)
    | error why => exact step_of_illegal (hport ▸ decode_cons_error hlen hd) hs
  · obtain ⟨op, hop⟩ := not_forall_not.mp (illegalHeader_iff.not.mp hlegal)
    obtain ⟨i, hi, -⟩ := (legalHeader_iff (ws.getD 0 0#32) (ws.getD 1 0#32)).mp hop
    obtain ⟨-, hhdr, -⟩ := decodeCommand_ok.mp hi
    exact ⟨i, decode_cons_ok.mpr ⟨hlen, hi, rfl⟩, hhdr⟩

/-! ## Worked encodings (R92; O4) -/

/-- Settles O4, by evaluating the assembler and the decoder on the nineteen rows. -/
theorem workedEncodings : Obligations.WorkedEncodings := by
  refine ⟨by decide +kernel, ?_, .notPulseChannel, by decide⟩
  simp only [List.forall_mem_cons]
  exact ⟨⟨.reservedChannel, by decide⟩, ⟨.strayBool, by decide⟩, by simp⟩

end Sys2Proof
end

section
/-! Products, quotients and roundings of finite words that stay within a finite word (R12). -/

namespace Sys2Proof.F32

section
variable {a b x r : F32}

theorem isFinite_of_magBits_le (hx : isFinite x = true) (h : magBits r ≤ magBits x) : isFinite r = true :=
  decide_eq_true (h.trans_lt (of_decide_eq_true hx))

/-- What is no larger than a finite word rounds to a finite word. -/
theorem IsRounding.isFinite_of_abs_le {z : ℚ} (h : IsRounding z r) (hx : isFinite x = true)
    (hz : |z| ≤ |(units x : ℚ)|) : isFinite r = true := (h.1 (hz.trans_lt (abs_units_lt_of_isFinite hx))).1

theorem mul_comm_of_isFinite (ha : isFinite a = true) (hb : isFinite b = true) : mul a b = mul b a := by
  rw [mul_of_isFinite ha hb, mul_of_isFinite hb ha, Nat.mul_comm, bne_comm]

/-- A product with a factor of at most 1 is no larger than the other factor. -/
theorem magBits_mul_le (ha : isFinite a = true) (hb : isFinite b = true) (h1 : magBits a ≤ magBits fOne) :
    magBits (mul a b) ≤ magBits b := by
  have hunits : magUnits a ≤ 2 ^ 149 := (magUnits_le_iff.mpr h1).trans_eq (by decide +kernel)
  rw [mul_of_isFinite ha hb, magBits_pack _ (roundMag_lt _ _)]
  refine roundMag_le_magBits hb (by decide) ?_
  rw [Nat.mul_comm]
  exact Nat.mul_le_mul_left _ hunits

end

theorem magUnits_eq_units {x : F32} (h : 0 ≤ units x) : (magUnits x : Int) = units x := by
  rw [← natAbs_units]
  exact Int.natAbs_of_nonneg h

/-- Of two finite words the smaller is at most 1 - 2^-24 times the larger: it has at most 24 significant bits, and both
are multiples of its last one. -/
theorem magUnits_ratio_of_lt {a b : F32} (h : magUnits a < magUnits b) :
    magUnits a * 2 ^ 24 ≤ 16777215 * magUnits b := by
  have hshift : 2 ^ roundShift (magUnits a) 1 ∣ magUnits a ∧
      2 ^ roundShift (magUnits a) 1 ∣ magUnits b := by
    rcases Nat.eq_zero_or_pos (roundShift (magUnits a) 1) with h0 | h0
    · simp [h0]
    · have hle := two_pow_roundShift_le h0
      rw [Nat.div_one] at hle
      exact ⟨two_pow_dvd_magUnits hle, two_pow_dvd_magUnits (hle.trans h.le)⟩
  have hbits : magUnits a < 2 ^ roundShift (magUnits a) 1 * 2 ^ 24 := by
    rw [← Nat.pow_add]
    refine Nat.lt_log2_self.trans_le (Nat.pow_le_pow_right (by decide) ?_)
    rw [roundShift, Nat.div_one]
    omega
  obtain ⟨⟨i, hi⟩, ⟨j, hj⟩⟩ := hshift
  have hpos := Nat.two_pow_pos (roundShift (magUnits a) 1)
  generalize 2 ^ roundShift (magUnits a) 1 = u at *
  rw [hi] at hbits h ⊢
  rw [hj] at h ⊢
  have hij : i < j := Nat.lt_of_mul_lt_mul_left h
  have hi24 : i < 2 ^ 24 := Nat.lt_of_mul_lt_mul_left hbits
  calc u * i * 2 ^ 24 = u * (i * 2 ^ 24) := Nat.mul_assoc ..
    _ ≤ u * (16777215 * j) := Nat.mul_le_mul_left _ (by omega)
    _ = 16777215 * (u * j) := Nat.mul_left_comm ..

end Sys2Proof.F32
end

section
/-! The setters (41_phase_accumulator.md R120 to R123): what each accepts and writes, and the fault it records otherwise
(O12 to O16). -/

namespace Sys2Proof.Machine

/-! ## A command from its effect (R264) -/

section
variable {i : Instr} {s t : State} (hs : s.faultValid = false)
include hs

theorem exec_of_commandBody (h : commandBody i s = .ok t) : exec i s = .next t :=
  (exec_eq_perform i s).trans (perform_ok hs h)

theorem exec_of_commandBody_error {cause : Cause} (h : commandBody i s = .error cause) :
    exec i s = .next (takeFault cause (headerOf i) s) :=
  (exec_eq_perform i s).trans (perform_error hs h)

end

/-- A sequence whose first part fails fails with its cause. -/
theorem bind_error {ε α β : Type} {x : Except ε α} {f : α → Except ε β} {e : ε} (h : x = .error e) :
    (x >>= f) = .error e := by
  rw [h]
  rfl

/-! ## SETFREQ (R120) -/

theorem frequencyPeriod_core (hz : F32) : frequencyPeriod Config.core hz =
    if F32.gt hz fZero && F32.isFinite hz then
      if F32.isInf (F32.div fOne hz) then .error .badFrequency else .ok (F32.div fOne hz)
    else .error .badFrequency := by
  simp only [frequencyPeriod, positiveFinite_core, core_num, binary32_isInf, binary32_div, binary32_one]

theorem frequencyPeriod_accepts {hz : F32} (hpos : F32.gt hz fZero = true) (hfin : F32.isFinite hz = true)
    (hinf : F32.isInf (F32.div fOne hz) = false) : frequencyPeriod Config.core hz = .ok (F32.div fOne hz) := by
  simp [frequencyPeriod_core, hpos, hfin, hinf]

theorem frequencyPeriod_refuses {hz : F32}
    (h : F32.gt hz fZero = false ∨ F32.isFinite hz = false ∨ F32.isInf (F32.div fOne hz) = true) :
    frequencyPeriod Config.core hz = .error .badFrequency := by
  rw [frequencyPeriod_core]
  obtain h | h | h := h <;> simp [h]

/-- Settles O12: the operand check answers 1/hz or BAD_FREQUENCY, and the write is one register of the channel. -/
theorem setfreqWritesReciprocalOrFaults : Obligations.SetfreqWritesReciprocalOrFaults := by
  refine fun s hz hs => ⟨fun hpos hfin hinf => ?_, fun h ch => ?_⟩
  · have writes (ch : Channel) : exec (.setfreq ch hz) s = .next (writeNextPeriod ch (F32.div fOne hz) s) :=
      exec_of_commandBody hs (bind_ok.mpr ⟨_, frequencyPeriod_accepts hpos hfin hinf, rfl⟩)
    exact ⟨writes .p1, writes .p2, writes .tri, writes .noise, writes .smp, writes .dsmp⟩
  · exact exec_of_commandBody_error (cause := .badFrequency) hs (bind_error (frequencyPeriod_refuses h))

/-- Settles O13: 1/hz counts 2^298 / u units where hz counts u, which reaches 2^128 - 2^103 exactly up to u = 2^21, the
units of the pattern 0x00200000. -/
theorem reciprocalOverflowsUpTo2PowMinus128 : Obligations.ReciprocalOverflowsUpTo2PowMinus128 := by
  intro hz hpos hlt
  have hbits : F32.magBits hz = hz.toNat := Nat.mod_eq_of_lt (hlt.trans (by decide))
  have hfin : F32.isFinite hz = true := decide_eq_true (hbits ▸ hlt)
  have hunits : F32.units hz ≠ 0 := fun h => hpos.ne' (hbits ▸ F32.units_eq_zero_iff.mp h)
  have hone : F32.magUnits fOne = 2 ^ 149 := by decide +kernel
  have hinf : F32.isInf (F32.div fOne hz) = true ↔ ¬ 2 ^ 149 * 2 ^ 149 < 33554431 * 2 ^ 252 * F32.magUnits hz := by
    rw [F32.div_of_isFinite isFinite_fOne hfin hunits, F32.isInf, decide_eq_true_eq,
      F32.magBits_pack _ (F32.roundMag_lt _ _), hone, ← F32.roundMag_lt_infMag_iff (F32.magUnits_pos hunits)]
    have := F32.roundMag_le_infMag (2 ^ 149 * 2 ^ 149) (F32.magUnits hz)
    omega
  have hlimit : F32.magUnits hz ≤ 2 ^ 21 ↔ hz.toNat ≤ 0x00200000 := by
    rw [← hbits]
    exact F32.magUnits_le_iff (y := 0x00200000#32)
  rw [hinf, ← hlimit]
  omega

/-! ## SETVOL (R121, R176) -/

theorem volumeOperand_refuses {v : F32} (h : F32.ge v fZero = false ∨ F32.le v fOne = false) :
    volumeOperand Config.core v = .error .badVolume := by
  rw [volumeOperand, inUnit_core]
  obtain h | h := h <;> simp [h]

theorem magBits_le_of_pendingRange {top x : F32} (htop : F32.isFinite top = true) (h : pendingRange top x = true) :
    F32.magBits x ≤ F32.magBits top := by
  obtain ⟨h0, hle⟩ := (pendingRange_iff htop).mp h
  obtain ⟨-, h0⟩ := nonnegFinite_iff.mp h0
  rw [← F32.magUnits_le_iff, ← F32.natAbs_units, ← F32.natAbs_units]
  omega

/-- 2.5 times a volume in [0, 1] stays finite. -/
theorem pendingVolume_dsmp {v : F32} (hv : inUnit Config.core v = true) :
    pendingVolume Config.core .dsmp v = .ok (F32.mul directGain v) := by
  obtain ⟨hv0, -⟩ := inUnit_iff.mp hv
  obtain ⟨hvfin, -⟩ := nonnegFinite_iff.mp hv0
  have hle := F32.magBits_mul_le hvfin isFinite_directGain
    (magBits_le_of_pendingRange isFinite_fOne (inUnit_eq_pendingRange v ▸ hv))
  rw [F32.mul_comm_of_isFinite hvfin isFinite_directGain] at hle
  simp only [pendingVolume, core_num, binary32_directGain]
  exact fmul_ok.mpr ⟨F32.isFinite_of_magBits_le isFinite_directGain hle, rfl⟩

theorem pendingVolume_of_ne_dsmp {c : Config} {ch : Channel} (hch : ch ≠ .dsmp) (v : F32) :
    pendingVolume c ch v = .ok v := by
  cases ch
  case dsmp => exact absurd rfl hch
  all_goals rfl

/-- Settles O14: a volume in [0, 1] is stored as it is, for DSMP 2.5 times, which stays in [0, 2.5]. -/
theorem setvolWritesPendingVolumeOrFaults : Obligations.SetvolWritesPendingVolumeOrFaults := by
  refine fun s v hs => ⟨fun h0 h1 => ?_, fun h ch => ?_⟩
  · have hv : inUnit Config.core v = true := by rw [inUnit_core, h0, h1]; rfl
    have writes {ch : Channel} {w : F32} (hw : pendingVolume Config.core ch v = .ok w) :
        exec (.setvol ch v) s = .next (writeNextVolume ch w s) :=
      exec_of_commandBody hs (bind_ok.mpr ⟨v, volumeOperand_ok.mpr ⟨hv, rfl⟩, bind_ok.mpr ⟨w, hw, rfl⟩⟩)
    have stored {ch : Channel} (hch : ch ≠ .dsmp) := writes (pendingVolume_of_ne_dsmp hch v)
    have hdsmp := pendingVolume_dsmp hv
    exact ⟨stored (ch := .p1) nofun, stored (ch := .p2) nofun, stored (ch := .tri) nofun, stored (ch := .noise) nofun,
      stored (ch := .smp) nofun, writes hdsmp, Bool.and_eq_true _ _ |>.mp (directGain_pendingRange hv hdsmp)⟩
  · exact exec_of_commandBody_error (cause := .badVolume) hs (bind_error (volumeOperand_refuses h))

/-! ## SETDUTY, SETMETAL (R122, R123) -/

theorem dutyOperand_refuses {d : F32} (h : F32.ge d fZero = false ∨ F32.le d fOne = false) :
    dutyOperand Config.core d = .error .badDuty := by
  rw [dutyOperand, inUnit_core]
  obtain h | h := h <;> simp [h]

theorem setdutyBody_of_isPulse {c : Config} {ch : Channel} (hch : ch.isPulse = true) (d : F32) (s : State) :
    setdutyBody c ch d s = dutyOperand c d >>= fun d => writeNextDuty ch d s := if_pos hch

/-- Settles O15: on P1 and P2 the operand check decides, on any other channel the header. -/
theorem setdutyWritesPendingDutyOrFaults : Obligations.SetdutyWritesPendingDutyOrFaults := by
  refine fun s d hs => ⟨fun h0 h1 => ?_, fun h ch hch => ?_, fun ch hp1 hp2 => ?_⟩
  · have hd : dutyOperand Config.core d = .ok d := dutyOperand_ok.mpr ⟨by rw [inUnit_core, h0, h1]; rfl, rfl⟩
    exact ⟨exec_of_commandBody hs (bind_ok.mpr ⟨d, hd, rfl⟩), exec_of_commandBody hs (bind_ok.mpr ⟨d, hd, rfl⟩)⟩
  · have hpulse : ch.isPulse = true := by obtain rfl | rfl := hch <;> rfl
    exact exec_of_commandBody_error (cause := .badDuty) hs
      ((setdutyBody_of_isPulse hpulse d s).trans (bind_error (dutyOperand_refuses h)))
  · refine exec_of_commandBody_error (cause := .illegalCommand) hs ?_
    cases ch
    case p1 => exact absurd rfl hp1
    case p2 => exact absurd rfl hp2
    all_goals rfl

/-- Settles O16: the effect of SETMETAL is the one write. -/
theorem setmetalWritesFlagAtOnce : Obligations.SetmetalWritesFlagAtOnce :=
  fun _ _ hs => exec_of_commandBody hs rfl

end Sys2Proof.Machine
end

section
/-! The phase accumulator (41_phase_accumulator.md R110 to R115): an update below the period (O17), at a crossing (O18),
and the faults of a crossing in their order (O19). -/

namespace Sys2Proof.Machine

/-! ## The count of whole periods (R110, R115) -/

section
variable {ph p : F32} {n : Nat} (hp : 0 < F32.units p)
include hp

/-- `ph` holds at least `n` periods exactly when the quotient is at least `n`. -/
theorem le_quotient_iff (hph : 0 ≤ F32.units ph) :
    n ≤ F32.magUnits ph / F32.magUnits p ↔ (n : Int) * F32.units p ≤ F32.units ph := by
  rw [Nat.le_div_iff_mul_le (F32.magUnits_pos hp.ne'), ← Int.ofNat_le, Int.natCast_mul, F32.magUnits_eq_units hp.le,
    F32.magUnits_eq_units hph]

theorem floorQuot_of_bounds (hlo : (n : Int) * F32.units p ≤ F32.units ph)
    (hhi : F32.units ph < ((n : Int) + 1) * F32.units p) : F32.floorQuot ph p = some n := by
  have hph : 0 ≤ F32.units ph := (mul_nonneg (Int.natCast_nonneg n) hp.le).trans hlo
  have hle := (le_quotient_iff hp hph).mpr hlo
  have hlt : ¬ n + 1 ≤ F32.magUnits ph / F32.magUnits p := by
    rw [le_quotient_iff hp hph]
    push_cast
    exact hhi.not_ge
  exact floorQuot_eq_some.mpr ⟨hp, hph, by omega⟩

end

/-! ## The first half of an update (R110, R115) -/

section
variable {c : Config} {isr phase period ph : F32} (hph : c.num.add phase isr = ph) (hfin : c.num.isFinite ph = true)
include hph hfin

theorem phaseStep_below (hlt : c.num.le period ph = false) : phaseStep c isr phase period = .ok (ph, none) :=
  bind_ok.mpr ⟨ph, fadd_ok.mpr ⟨hph ▸ hfin, hph.symm⟩, by simp [hlt]⟩

/-- At a crossing the count decides between an answer and COUNT_OVERFLOW. -/
theorem phaseStep_crossing {n : Nat} (hge : c.num.le period ph = true) (hn : c.num.floorQuot ph period = some n) :
    phaseStep c isr phase period = if c.nMax < n then .error .countOverflow else .ok (ph, some n) := by
  have hadd : fadd c phase isr = .ok ph := fadd_ok.mpr ⟨hph ▸ hfin, hph.symm⟩
  rw [phaseStep, hadd]
  change (if c.num.le period ph = true then _ else _) = _
  rw [if_pos hge, floorExact_ok.mpr hn]
  rfl

end

/-! ## The commit (R111 to R114) -/

theorem commitPhasor_written {a : Phasor} {p v : F32} (hp : a.nextPeriod = some p) (hv : a.nextVolume = some v)
    (c : Config) : commitPhasor c a = .ok { a with period := some p, volume := committedVolume c v } :=
  bind_ok.mpr ⟨p, readWritten_ok.mpr hp, bind_ok.mpr ⟨v, readWritten_ok.mpr hv, rfl⟩⟩

theorem commitPhasor_unwritten {a : Phasor} (h : a.nextPeriod = none ∨ a.nextVolume = none) (c : Config) :
    commitPhasor c a = .error .unwrittenParam := by
  unfold commitPhasor
  obtain h | h := h
  · rw [h]; rfl
  · rw [h]
    cases a.nextPeriod <;> rfl

theorem commitPulse_written {c : Config} {g : Pulse} {a : Phasor} {d : F32} (ha : commitPhasor c g.acc = .ok a)
    (hd : g.nextDuty = some d) : commitPulse c g = .ok { g with acc := a, duty := some d } :=
  bind_ok.mpr ⟨a, ha, bind_ok.mpr ⟨d, readWritten_ok.mpr hd, rfl⟩⟩

theorem commitPulse_unwritten {g : Pulse} (h : (g.acc.nextPeriod = none ∨ g.acc.nextVolume = none) ∨ g.nextDuty = none)
    (c : Config) : commitPulse c g = .error .unwrittenParam := by
  by_cases hacc : g.acc.nextPeriod = none ∨ g.acc.nextVolume = none
  · exact bind_error (commitPhasor_unwritten hacc c)
  · obtain ⟨hp, hv⟩ := not_or.mp hacc
    obtain ⟨p, hp⟩ := Option.ne_none_iff_exists'.mp hp
    obtain ⟨v, hv⟩ := Option.ne_none_iff_exists'.mp hv
    rw [commitPulse, commitPhasor_written hp hv, h.resolve_left hacc]
    rfl

theorem wrapPhase_written {c : Config} {ph p : F32} {a : Phasor} (hp : a.period = some p)
    (hfin : c.num.isFinite (c.num.fmod ph p) = true) :
    wrapPhase c ph a = .ok { a with phase := c.num.fmod ph p } :=
  bind_ok.mpr ⟨p, readWritten_ok.mpr hp, bind_ok.mpr ⟨_, ffmod_ok.mpr ⟨hfin, rfl⟩, rfl⟩⟩

/-! ## The update from its first half and its commit (R110) -/

section
variable {c : Config} {isr p ph : F32} {cause : Cause} {a : Phasor} {g : Pulse} {n : Nat}

theorem phasorUpdate_below (hp : a.period = some p) (hs : phaseStep c isr a.phase p = .ok (ph, none)) :
    phasorUpdate c isr a = .ok ({ a with phase := ph }, 0) :=
  bind_ok.mpr ⟨p, readWritten_ok.mpr hp, bind_ok.mpr ⟨_, hs, rfl⟩⟩

theorem pulseUpdate_below (hp : g.acc.period = some p) (hs : phaseStep c isr g.acc.phase p = .ok (ph, none)) :
    pulseUpdate c isr g = .ok ({ g with acc := { g.acc with phase := ph } }, 0) :=
  bind_ok.mpr ⟨p, readWritten_ok.mpr hp, bind_ok.mpr ⟨_, hs, rfl⟩⟩

theorem phasorUpdate_crossing (hp : a.period = some p) (hs : phaseStep c isr a.phase p = .ok (ph, some n)) :
    phasorUpdate c isr a = commitPhasor c a >>= fun a' => wrapPhase c ph a' >>= fun a'' => .ok (a'', n) := by
  rw [phasorUpdate, hp, readWritten_some]
  change (phaseStep c isr a.phase p >>= _) = _
  rw [hs]
  rfl

theorem pulseUpdate_crossing (hp : g.acc.period = some p) (hs : phaseStep c isr g.acc.phase p = .ok (ph, some n)) :
    pulseUpdate c isr g =
      commitPulse c g >>= fun g' => wrapPhase c ph g'.acc >>= fun a => .ok ({ g' with acc := a }, n) := by
  rw [pulseUpdate, hp, readWritten_some]
  change (phaseStep c isr g.acc.phase p >>= _) = _
  rw [hs]
  rfl

theorem phasorUpdate_error (hp : a.period = some p) (hs : phaseStep c isr a.phase p = .error cause) :
    phasorUpdate c isr a = .error cause := by
  rw [phasorUpdate, hp, readWritten_some]
  exact bind_error (x := phaseStep c isr a.phase p) hs

theorem pulseUpdate_error (hp : g.acc.period = some p) (hs : phaseStep c isr g.acc.phase p = .error cause) :
    pulseUpdate c isr g = .error cause := by
  rw [pulseUpdate, hp, readWritten_some]
  exact bind_error (x := phaseStep c isr g.acc.phase p) hs

end

/-- Settles O17: below the period the first half of the update answers no count, and only the phase is written. -/
theorem updateBelowPeriodOnlyMovesPhase : Obligations.UpdateBelowPeriodOnlyMovesPhase := by
  intro c isr p hc
  have below {phase : F32} (hfin : F32.isFinite (F32.add phase isr) = true)
      (hge : F32.ge (F32.add phase isr) p = false) :
      phaseStep c isr phase p = .ok (F32.add phase isr, none) :=
    phaseStep_below (by rw [hc]; rfl) (by rw [hc]; exact hfin) (by rw [hc]; exact hge)
  exact ⟨fun a hp hfin hge => phasorUpdate_below hp (below hfin hge),
    fun g hp hfin hge => pulseUpdate_below hp (below hfin hge)⟩

theorem committedVolume_binary32 {c : Config} (hc : c.num = NumFmt.binary32) (v : F32) :
    committedVolume c v = if F32.lt v 0x3C23D70A#32 then fZero else v := by
  rw [committedVolume, hc, binary32_volThreshold]
  rfl

/-- Settles O18: the bounds make `n` the count, so the update is its commit and then the wrap into the new period. -/
theorem updateAtCrossingCommitsAndWraps : Obligations.UpdateAtCrossingCommitsAndWraps := by
  intro c isr ph p p' v n hc hfin hge hp0 hlo hhi hn hmod
  have hquot : c.num.floorQuot ph p = some n := by rw [hc]; exact floorQuot_of_bounds hp0 hlo hhi
  have hmod : c.num.isFinite (c.num.fmod ph p') = true := by rw [hc]; exact hmod
  have hfmod : c.num.fmod ph p' = F32.fmod ph p' := by rw [hc]; rfl
  have crosses {phase : F32} (hph : F32.add phase isr = ph) : phaseStep c isr phase p = .ok (ph, some n) :=
    (phaseStep_crossing (by rw [hc]; exact hph) (by rw [hc]; exact hfin) (by rw [hc]; exact hge) hquot).trans
      (if_neg hn.not_gt)
  refine ⟨fun a hph hp hp' hv => ?_, fun g d hph hp hp' hv hd => ?_⟩
  · rw [phasorUpdate_crossing hp (crosses hph), ← committedVolume_binary32 hc, ← hfmod]
    exact bind_ok.mpr ⟨_, commitPhasor_written hp' hv c, bind_ok.mpr ⟨_, wrapPhase_written rfl hmod, rfl⟩⟩
  · rw [pulseUpdate_crossing hp (crosses hph), ← committedVolume_binary32 hc, ← hfmod]
    exact bind_ok.mpr ⟨_, commitPulse_written (commitPhasor_written hp' hv c) hd,
      bind_ok.mpr ⟨_, wrapPhase_written rfl hmod, rfl⟩⟩

/-- Settles O19: the count is checked in the first half of the update, the pending registers in its commit. -/
theorem crossingFaultsInOrder : Obligations.CrossingFaultsInOrder := by
  intro c isr ph p g hc hph hfin hp hge hp0
  have hph0 : 0 ≤ F32.units ph := hp0.le.trans (F32.units_le_of_le hge)
  have hquot : c.num.floorQuot ph p = some (F32.magUnits ph / F32.magUnits p) := by
    rw [hc]
    exact floorQuot_eq_some.mpr ⟨hp0, hph0, rfl⟩
  have hstep := phaseStep_crossing (c := c) (by rw [hc]; exact hph) (by rw [hc]; exact hfin) (by rw [hc]; exact hge)
    hquot
  have hcount : c.nMax < F32.magUnits ph / F32.magUnits p ↔ ((c.nMax : Int) + 1) * F32.units p ≤ F32.units ph :=
    le_quotient_iff (n := c.nMax + 1) hp0 hph0
  refine ⟨fun hover => ?_, fun hwithin => ?_⟩
  · have hs := hstep.trans (if_pos (hcount.mpr hover))
    exact ⟨pulseUpdate_error hp hs, phasorUpdate_error hp hs⟩
  · have hs := hstep.trans (if_neg (hcount.not.mpr hwithin.not_ge))
    have pulse (h : (g.acc.nextPeriod = none ∨ g.acc.nextVolume = none) ∨ g.nextDuty = none) :
        pulseUpdate c isr g = .error .unwrittenParam :=
      (pulseUpdate_crossing hp hs).trans (bind_error (commitPulse_unwritten h c))
    exact ⟨fun h => ⟨pulse (.inl h), (phasorUpdate_crossing hp hs).trans (bind_error (commitPhasor_unwritten h c))⟩,
      fun h => pulse (.inr h)⟩

end Sys2Proof.Machine
end

section
/-! The noise shift register (41_phase_accumulator.md R134, R136): an advance bit by bit (O27), and the cycle lengths
(O29). -/

namespace Sys2Proof.Machine

/-! ## One advance (R134) -/

/-- Settles O27: `getLsbD_lfsrAdvance` at bit 14 and below it. -/
theorem lfsrAdvanceShiftsInFeedback : Obligations.LfsrAdvanceShiftsInFeedback := by
  refine fun m r => ⟨?_, fun k hk => ?_⟩
  · rw [getLsbD_lfsrAdvance m r (by decide), if_pos rfl, lfsrFeedback]
    cases m <;> rfl
  · rw [getLsbD_lfsrAdvance m r (by omega), if_neg hk.ne]

theorem lfsrFeedback_xor (m : Bool) (a b : Lfsr) :
    lfsrFeedback m (a ^^^ b) = (lfsrFeedback m a ^^ lfsrFeedback m b) := by
  cases m <;> simp [lfsrFeedback, Bool.xor_left_comm]

/-- An advance is linear over XOR. -/
theorem lfsrAdvance_xor (m : Bool) (a b : Lfsr) : lfsrAdvance m (a ^^^ b) = lfsrAdvance m a ^^^ lfsrAdvance m b := by
  refine BitVec.eq_of_getLsbD_eq fun k hk => ?_
  rw [BitVec.getLsbD_xor, getLsbD_lfsrAdvance m _ hk, getLsbD_lfsrAdvance m _ hk, getLsbD_lfsrAdvance m _ hk]
  split
  · exact lfsrFeedback_xor m a b
  · exact BitVec.getLsbD_xor

/-- Bits move down one place an advance. -/
theorem getLsbD_lfsrAdvance_iterate (m : Bool) (r : Lfsr) {j k : Nat} (h : j + k < 15) :
    ((lfsrAdvance m)^[j] r).getLsbD k = r.getLsbD (j + k) := by
  induction j generalizing k with
  | zero => rw [Nat.zero_add]; rfl
  | succ j ih =>
    rw [Function.iterate_succ_apply', getLsbD_lfsrAdvance m _ (by omega), if_neg (by omega), ih (by omega)]
    congr 1
    omega

/-- Outside metallic mode every bit has been fed back after 15 advances, from its own place and the one above it. -/
theorem lfsrAdvance_iterate_fifteen (r : Lfsr) :
    (lfsrAdvance false)^[15] r = lfsrAdvance false r ^^^ r := by
  refine BitVec.eq_of_getLsbD_eq fun k hk => ?_
  let f := lfsrAdvance false
  have hsplit : f^[15] r = f^[14 - k] (f (f^[k] r)) := by
    rw [← Function.iterate_succ_apply' f, ← Function.iterate_add_apply, show 14 - k + k.succ = 15 by omega]
  have htap : (f^[k] r).getLsbD 1 = (f r).getLsbD k := by
    have hshift : (f (f^[k] r)).getLsbD 0 = (f^[k] r).getLsbD 1 := getLsbD_lfsrAdvance false _ (by decide)
    rw [← hshift, ← Function.iterate_succ_apply' f, Function.iterate_succ_apply]
    exact getLsbD_lfsrAdvance_iterate false _ hk
  calc (f^[15] r).getLsbD k = (f (f^[k] r)).getLsbD (14 - k + k) := by
        rw [hsplit]
        exact getLsbD_lfsrAdvance_iterate false _ (by omega)
    _ = lfsrFeedback false (f^[k] r) := by
        rw [Nat.sub_add_cancel (by omega)]
        exact getLsbD_lfsrAdvance false _ (by decide)
    _ = (r.getLsbD k ^^ (f r).getLsbD k) := by
        rw [← htap]
        exact congrArg (· ^^ _) (getLsbD_lfsrAdvance_iterate false r hk)
    _ = (f r ^^^ r).getLsbD k := by rw [BitVec.getLsbD_xor, Bool.xor_comm]

/-! ## Many advances at once (R136)

Over XOR an advance outside metallic mode satisfies `f^15 = f + 1`. Squaring a sum squares its terms, so `f^16`, `f^32`
and so on are short sums of small powers. -/

theorem iterate_sixteen {f : Lfsr → Lfsr} (h15 : ∀ r, f^[15] r = f r ^^^ r) (r : Lfsr) :
    f^[16] r = f^[2] r ^^^ f^[1] r := h15 (f r)

section
variable {f : Lfsr → Lfsr} (hxor : ∀ a b, f (a ^^^ b) = f a ^^^ f b)
include hxor

theorem iterate_xor (n : Nat) (a b : Lfsr) : f^[n] (a ^^^ b) = f^[n] a ^^^ f^[n] b := by
  induction n generalizing a b with
  | zero => rfl
  | succ n ih =>
    rw [Function.iterate_succ_apply, hxor, ih]
    rfl

/-- The cross terms of a square cancel. -/
theorem iterate_two_mul {n a b : Nat} (h : ∀ r, f^[n] r = f^[a] r ^^^ f^[b] r) (r : Lfsr) :
    f^[n * 2] r = f^[a * 2] r ^^^ f^[b * 2] r := by
  have hcross : f^[a] (f^[b] r) = f^[b] (f^[a] r) := Function.Commute.iterate_iterate_self f a b r
  rw [Nat.mul_two, Nat.mul_two, Nat.mul_two, Function.iterate_add_apply, Function.iterate_add_apply,
    Function.iterate_add_apply, h (f^[n] r), h r, iterate_xor hxor, iterate_xor hxor, hcross, BitVec.xor_assoc,
    ← BitVec.xor_assoc (f^[b] (f^[a] r)), BitVec.xor_self, BitVec.zero_xor]

theorem iterate_mul_two_pow {n a b : Nat} (h : ∀ r, f^[n] r = f^[a] r ^^^ f^[b] r) (k : Nat) (r : Lfsr) :
    f^[n * 2 ^ k] r = f^[a * 2 ^ k] r ^^^ f^[b * 2 ^ k] r := by
  induction k generalizing r with
  | zero => simpa using h r
  | succ k ih =>
    simp only [Nat.pow_succ, ← Nat.mul_assoc]
    exact iterate_two_mul hxor ih r

variable (h15 : ∀ r, f^[15] r = f r ^^^ r)
include h15

theorem iterate_sixteen_mul (k : Nat) (r : Lfsr) : f^[16 * 2 ^ k] r = f^[2 * 2 ^ k] r ^^^ f^[1 * 2 ^ k] r :=
  iterate_mul_two_pow hxor (iterate_sixteen h15) k r

theorem iterate_256 (r : Lfsr) : f^[256] r = f^[4] r ^^^ f^[1] r := by
  calc f^[256] r = f^[32] r ^^^ f^[16] r := iterate_sixteen_mul hxor h15 4 r
    _ = (f^[4] r ^^^ f^[2] r) ^^^ (f^[2] r ^^^ f^[1] r) := by
      rw [iterate_sixteen h15]
      exact congrArg (· ^^^ _) (iterate_sixteen_mul hxor h15 1 r)
    _ = f^[4] r ^^^ f^[1] r := by
      rw [BitVec.xor_assoc, ← BitVec.xor_assoc (f^[2] r), BitVec.xor_self, BitVec.zero_xor]

theorem iterate_256_mul (k : Nat) (r : Lfsr) : f^[256 * 2 ^ k] r = f^[4 * 2 ^ k] r ^^^ f^[1 * 2 ^ k] r :=
  iterate_mul_two_pow hxor (iterate_256 hxor h15) k r

theorem iterate_two_pow_fifteen (r : Lfsr) : f^[32768] r = f r := by
  calc f^[32768] r = f^[512] r ^^^ f^[128] r := iterate_256_mul hxor h15 7 r
    _ = (f^[8] r ^^^ f^[2] r) ^^^ (f^[16] r ^^^ f^[8] r) :=
      congrArg₂ (· ^^^ ·) (iterate_256_mul hxor h15 1 r) (iterate_sixteen_mul hxor h15 3 r)
    _ = f^[8] r ^^^ (f^[2] r ^^^ f^[2] r) ^^^ (f^[1] r ^^^ f^[8] r) := by
      rw [iterate_sixteen h15]
      simp only [BitVec.xor_assoc]
    _ = f r := by
      rw [BitVec.xor_self, BitVec.xor_zero, BitVec.xor_comm, BitVec.xor_assoc, BitVec.xor_self, BitVec.xor_zero]
      rfl

end

/-- A point that comes back after `n` steps, and not after `n / q` for any prime `q`, comes back after `n` first. -/
theorem first_return {α : Type} {f : α → α} {x : α} {n : Nat} (hn : f^[n] x = x)
    (hq : ∀ q, q.Prime → q ∣ n → f^[n / q] x ≠ x) (k : Nat) (hk0 : 0 < k) (hk : k < n) : f^[k] x ≠ x := by
  intro hback
  obtain ⟨e, he⟩ := Function.IsPeriodicPt.minimalPeriod_dvd (f := f) (x := x) hn
  have hle : Function.minimalPeriod f x ≤ k := Function.IsPeriodicPt.minimalPeriod_le hk0 hback
  have hne : e ≠ 1 := by
    rintro rfl
    omega
  obtain ⟨q, hprime, j, rfl⟩ := Nat.exists_prime_and_dvd hne
  refine hq q hprime ⟨Function.minimalPeriod f x * j, by rw [he]; ring⟩ ?_
  have hquot : n / q = Function.minimalPeriod f x * j :=
    Nat.div_eq_of_eq_mul_left hprime.pos (by rw [he]; ring)
  rw [hquot]
  exact (Function.isPeriodicPt_minimalPeriod f x).mul_const j

/-- A prime factor of 32767 = 7 * 31 * 151. -/
theorem prime_dvd_32767 {q : Nat} (hq : q.Prime) (h : q ∣ 32767) : q = 7 ∨ q = 31 ∨ q = 151 := by
  rw [show 32767 = 7 * 31 * 151 by rfl, hq.dvd_mul, hq.dvd_mul, Nat.prime_dvd_prime_iff_eq hq (by norm_num),
    Nat.prime_dvd_prime_iff_eq hq (by norm_num), Nat.prime_dvd_prime_iff_eq hq (by norm_num), or_assoc] at h
  exact h

/-- A prime factor of 93 = 3 * 31. -/
theorem prime_dvd_93 {q : Nat} (hq : q.Prime) (h : q ∣ 93) : q = 3 ∨ q = 31 := by
  rw [show 93 = 3 * 31 by rfl, hq.dvd_mul, Nat.prime_dvd_prime_iff_eq hq (by norm_num),
    Nat.prime_dvd_prime_iff_eq hq (by norm_num)] at h
  exact h

/-- Settles O29: the seed comes back after 2^15 - 1 advances because `f^(2^15) = f`, and not after 32767 / 7, 32767 / 31
or 32767 / 151; in metallic mode the 93 advances are few enough to evaluate. -/
theorem lfsrCycleLengths : Obligations.LfsrCycleLengths := by
  have h256 := iterate_256_mul (lfsrAdvance_xor false) lfsrAdvance_iterate_fifteen
  have hback (r : Lfsr) : (lfsrAdvance false)^[32767] r = r := by
    refine lfsrAdvance_injective false ?_
    rw [← Function.iterate_succ_apply' (lfsrAdvance false)]
    exact iterate_two_pow_fifteen (lfsrAdvance_xor false) lfsrAdvance_iterate_fifteen r
  refine ⟨⟨hback _, first_return (hback _) fun q hq hdvd => ?_⟩,
    by decide +kernel, first_return (by decide +kernel) fun q hq hdvd => ?_⟩
  · obtain rfl | rfl | rfl := prime_dvd_32767 hq hdvd
    · rw [show 32767 / 7 = 256 * 2 ^ 4 + (256 * 2 ^ 1 + 73) by rfl, Function.iterate_add_apply,
        Function.iterate_add_apply, h256, h256]
      decide +kernel
    · rw [show 32767 / 31 = 256 * 2 ^ 2 + 33 by rfl, Function.iterate_add_apply, h256]
      decide +kernel
    · decide +kernel
  · obtain rfl | rfl := prime_dvd_93 hq hdvd <;> decide +kernel

end Sys2Proof.Machine
end

section
/-! The outputs of the pulse, triangle and noise generators (41_phase_accumulator.md R130, R131, R135; O24, O25, O26,
O30), and their bounds by the volume (R140). -/

namespace Sys2Proof.Machine

/-! ## Pulse (R130) -/

/-- Settles O24: the level is chosen by the comparison with the product the get has checked. -/
theorem pulseOutputIsPlusOrMinusVolume : Obligations.PulseOutputIsPlusOrMinusVolume := by
  intro c isr o g t hc h
  obtain ⟨g', n, p, d, hu, hp, hd, hl, rfl⟩ := pulseGet_ok h
  obtain ⟨-, ho⟩ := pulseLevel_ok hl
  rw [hc] at ho
  exact ⟨g', n, p, d, hu, rfl, hp, hd, ho⟩

/-! ## Triangle (R131) -/

/-- The word before 1.0 in binary32, 1 - 2^-24. -/
theorem units_below_one : F32.units 0x3F7FFFFF#32 = 16777215 * 2 ^ 125 := by decide +kernel

/-- The exact quotient of a finite word by a larger one is at most 1 - 2^-24. -/
theorem quotient_le_below_one {a b : F32} (ha : 0 ≤ F32.units a) (hab : F32.units a < F32.units b) :
    (F32.units a * 2 ^ 149 / F32.units b : ℚ) ≤ F32.units 0x3F7FFFFF#32 := by
  have hb : 0 < F32.units b := ha.trans_lt hab
  have hratio : F32.units a * 2 ^ 24 ≤ 16777215 * F32.units b := by
    have hmag : F32.magUnits a < F32.magUnits b := by
      rw [← Int.ofNat_lt, F32.magUnits_eq_units ha, F32.magUnits_eq_units hb.le]
      exact hab
    rw [← F32.magUnits_eq_units ha, ← F32.magUnits_eq_units hb.le]
    exact_mod_cast F32.magUnits_ratio_of_lt hmag
  rw [div_le_iff₀ (by exact_mod_cast hb), units_below_one]
  calc (F32.units a * 2 ^ 149 : ℚ) = (F32.units a * 2 ^ 24 : Int) * 2 ^ 125 := by push_cast; ring
    _ ≤ (16777215 * F32.units b : Int) * 2 ^ 125 :=
      mul_le_mul_of_nonneg_right (by exact_mod_cast hratio) (by positivity)
    _ = (16777215 * 2 ^ 125 : Int) * F32.units b := by push_cast; ring

/-- Settles O25: the quotient is at most 1 - 2^-24, which is a binary32 value, so it rounds to at most that. -/
theorem triangleRatioBelowOne : Obligations.TriangleRatioBelowOne := by
  intro a b ha hb hge hlt
  have ha0 : 0 ≤ F32.units a := units_fZero ▸ F32.units_le_of_le hge
  have hab : F32.units a < F32.units b := (F32.lt_iff_units ha hb).mp hlt
  have hb0 : 0 < F32.units b := ha0.trans_lt hab
  have hr := F32.isRounding_div ha hb hb0.ne'
  have hq := quotient_le_below_one ha0 hab
  have hq0 : (0 : ℚ) ≤ F32.units a * 2 ^ 149 / F32.units b :=
    div_nonneg (mul_nonneg (by exact_mod_cast ha0) (by positivity)) (by exact_mod_cast hb0.le)
  have hbelow : F32.isFinite 0x3F7FFFFF#32 = true := by decide
  have hfin : F32.isFinite (F32.div a b) = true := by
    refine hr.isFinite_of_abs_le hbelow ?_
    rw [abs_of_nonneg hq0]
    exact hq.trans (le_abs_self _)
  obtain ⟨-, hnonneg⟩ := nonnegFinite_iff.mp (nonnegFinite_of_isRounding hr hfin hq0)
  refine ⟨hfin, (F32.le_iff_units isFinite_fZero hfin).mpr (units_fZero ▸ hnonneg), ?_⟩
  refine (F32.lt_iff_units hfin isFinite_fOne).mpr ((hr.units_le hfin hbelow hq).trans_lt ?_)
  rw [units_below_one, units_fOne]
  decide

theorem triangleRamp_ok {c : Config} {t y : F32} (h : triangleRamp c t = .ok y) :
    ∃ q, fmul c (c.num.lit .four) t = .ok q ∧
      ((c.num.lt t (c.num.lit .half) = true ∧ fsub c q (c.num.lit .one) = .ok y) ∨
       (c.num.lt t (c.num.lit .half) = false ∧ fsub c (c.num.lit .three) q = .ok y)) := by
  obtain ⟨q, hq, h⟩ := bind_ok.mp h
  refine ⟨q, hq, ?_⟩
  split at h
  · exact .inl ⟨‹_›, h⟩
  · exact .inr ⟨Bool.eq_false_iff.mpr ‹_›, h⟩

/-- Settles O26: each checked operation answers its one rounding. -/
theorem triangleOutputFormula : Obligations.TriangleOutputFormula := by
  intro c isr o a b hc h
  obtain ⟨a', n, p, t, y, hu, hp, ht, hy, ho, rfl⟩ := triGet_ok h
  obtain ⟨q, hq, hy⟩ := triangleRamp_ok hy
  obtain ⟨-, rfl⟩ := fdiv_ok.mp ht
  obtain ⟨-, rfl⟩ := fmul_ok.mp hq
  obtain ⟨-, ho⟩ := fmul_ok.mp ho
  refine ⟨a', n, p, hu, rfl, hp, ?_⟩
  obtain ⟨hlt, hy⟩ | ⟨hlt, hy⟩ := hy <;> obtain ⟨-, rfl⟩ := fsub_ok.mp hy <;>
    simp only [hc, binary32_half, binary32_one, binary32_three, binary32_four] at hlt ho
  · exact ho.trans (congrArg (F32.mul · a'.volume) (if_pos hlt).symm)
  · exact ho.trans (congrArg (F32.mul · a'.volume) (if_neg (Bool.eq_false_iff.mp hlt)).symm)

/-! ## Noise (R135) -/

theorem lfsrRun_register (c : Config) (m : Bool) (n : Nat) (r : Lfsr) (k : Nat) :
    (lfsrRun c m n r k).1 = (lfsrAdvance m)^[n] r := by
  induction n generalizing r k with
  | zero => rfl
  | succ n ih => exact ih _ _

/-- The count is of the advances that shift out a set bit. -/
theorem lfsrRun_core_count (m : Bool) (n : Nat) (r : Lfsr) (k : Nat) : (lfsrRun Config.core m n r k).2 =
    k + ((List.range n).filter fun j => ((lfsrAdvance m)^[j] r).getLsbD 0).length := by
  induction n generalizing r k with
  | zero => rfl
  | succ n ih =>
    have hhead : lfsrCounted Config.core m r = (r.getLsbD 0).toNat := rfl
    have htail : ((fun j => ((lfsrAdvance m)^[j] r).getLsbD 0) ∘ Nat.succ) =
        fun j => ((lfsrAdvance m)^[j] (lfsrAdvance m r)).getLsbD 0 := rfl
    rw [lfsrRun, ih, hhead, List.range_succ_eq_map, List.filter_cons, List.filter_map, htail]
    change _ = k + (if r.getLsbD 0 = true then _ else _ : List Nat).length
    cases r.getLsbD 0
    · simp
    · simp
      omega

/-- Settles O30: the get answers the average of the run, which is `n` advances and the count of their set bits. -/
theorem noiseOutputIsFractionOfSetBits : Obligations.NoiseOutputIsFractionOfSetBits := by
  intro isr o g t h
  obtain ⟨a, n, hu, hcases⟩ := noiseGet_ok h
  obtain ⟨-, -, hout⟩ := phasorUpdate_frame hu
  refine ⟨a, n, hu, fun hn => ?_, fun hn => ?_⟩
  · obtain ⟨-, ht, ho⟩ | ⟨hne, -⟩ := hcases
    · exact ⟨ht, ho, hout⟩
    · exact absurd hn hne
  · obtain ⟨h0, -⟩ | ⟨-, num, den, avg, hnum, hden, havg, ho, rfl⟩ := hcases
    · exact absurd h0 hn.ne'
    · obtain ⟨-, rfl⟩ := ffromNat_ok.mp hnum
      obtain ⟨-, rfl⟩ := ffromNat_ok.mp hden
      obtain ⟨-, rfl⟩ := fdiv_ok.mp havg
      obtain ⟨-, ho⟩ := fmul_ok.mp ho
      rw [lfsrRun_core_count, Nat.zero_add] at ho
      rw [lfsrRun_core_count, lfsrRun_register, Nat.zero_add]
      exact ⟨ho, rfl⟩

/-! ## The bound by the volume (R140) -/

theorem pulseGet_magBits {isr o : F32} {g t : Pulse} (h : pulseGet Config.core isr g = .ok (t, o)) :
    F32.magBits t.acc.out = F32.magBits t.acc.volume := by
  obtain ⟨g', n, p, d, -, -, -, hl, rfl⟩ := pulseGet_ok h
  obtain ⟨-, rfl⟩ := pulseLevel_ok hl
  change F32.magBits (if _ then _ else F32.neg _) = _
  split
  · rfl
  · exact F32.magBits_neg _

/-- A word from -1 to 1. -/
theorem magBits_le_fOne {x : F32} (hlo : -F32.units fOne ≤ F32.units x) (hhi : F32.units x ≤ F32.units fOne) :
    F32.magBits x ≤ F32.magBits fOne := by
  rw [← F32.magUnits_le_iff, ← F32.natAbs_units, ← F32.natAbs_units]
  omega

/-- A difference from -1 to 1 rounds to a word from -1 to 1. -/
theorem magBits_fsub_le_fOne {a b x : F32} (ha : F32.isFinite a = true) (hb : F32.isFinite b = true)
    (hlo : F32.units b ≤ F32.units a + F32.units fOne) (hhi : F32.units a ≤ F32.units b + F32.units fOne)
    (h : fsub Config.core a b = .ok x) : F32.magBits x ≤ F32.magBits fOne := by
  obtain ⟨hfin, rfl⟩ := fsub_ok.mp h
  have hr := F32.isRounding_sub ha hb
  have hneg : F32.isFinite (F32.neg fOne) = true := by decide
  refine magBits_le_fOne ?_ (hr.units_le hfin isFinite_fOne ?_)
  · rw [← F32.units_neg]
    refine hr.le_units hfin hneg ?_
    rw [F32.units_neg, Int.cast_neg, neg_le_iff_add_nonneg, sub_add_eq_add_sub, sub_nonneg]
    exact_mod_cast hlo
  · rw [sub_le_iff_le_add']
    exact_mod_cast hhi

theorem units_fHalf : F32.units fHalf * 2 = 2 ^ 149 := by decide +kernel
theorem units_fTwo : F32.units fTwo = 2 * 2 ^ 149 := by decide +kernel
theorem units_fThree : F32.units fThree = 3 * 2 ^ 149 := by decide +kernel
theorem units_fFour : F32.units fFour = 4 * 2 ^ 149 := by decide +kernel

theorem isRounding_four_mul {t : F32} (ht : F32.isFinite t = true) :
    F32.IsRounding (4 * F32.units t : Int) (F32.mul fFour t) := by
  have h := F32.isRounding_mul (a := fFour) (by decide) ht
  rwa [units_fFour, show ((4 * 2 ^ 149 : Int) * F32.units t / 2 ^ 149 : ℚ) = (4 * F32.units t : Int) by
    rw [div_eq_iff (by positivity)]
    push_cast
    ring] at h

/-- 4 t is at most 2 below one half and from 2 to 4 above, so both branches of the ramp lie in [-1, 1]. -/
theorem triangleRamp_magBits {t y : F32} (ht : inUnit Config.core t = true)
    (h : triangleRamp Config.core t = .ok y) : F32.magBits y ≤ F32.magBits fOne := by
  obtain ⟨ht0, ht1⟩ := inUnit_iff.mp ht
  obtain ⟨htfin, -⟩ := nonnegFinite_iff.mp ht0
  obtain ⟨q, hq, hy⟩ := triangleRamp_ok h
  obtain ⟨hqfin, hq0⟩ := nonnegFinite_iff.mp (fmul_nonneg (nonnegFinite_literal (by decide)) ht0 hq)
  have hr : F32.IsRounding (4 * F32.units t : Int) q := by
    obtain ⟨-, rfl⟩ := fmul_ok.mp hq
    rw [core_num, binary32_four]
    exact isRounding_four_mul htfin
  simp only [core_num, binary32_half, binary32_one, binary32_three, binary32_lt] at hy
  have hhalf := units_fHalf
  obtain ⟨hlt, hy⟩ | ⟨hge, hy⟩ := hy
  · have hlt : F32.units t < F32.units fHalf := (F32.lt_iff_units htfin (by decide)).mp hlt
    have hq2 := hr.units_le (x := fTwo) hqfin (by decide) (by rw [units_fTwo]; exact_mod_cast (by omega))
    rw [units_fTwo] at hq2
    refine magBits_fsub_le_fOne hqfin isFinite_fOne ?_ ?_ hy <;> rw [units_fOne] <;> omega
  · have hge : F32.units fHalf ≤ F32.units t := by
      rw [← not_lt, ← F32.lt_iff_units htfin (by decide)]
      exact Bool.eq_false_iff.mp hge
    rw [units_fOne] at ht1
    have hq2 := hr.le_units (x := fTwo) hqfin (by decide) (by rw [units_fTwo]; exact_mod_cast (by omega))
    have hq4 := hr.units_le (x := fFour) hqfin (by decide) (by rw [units_fFour]; exact_mod_cast (by omega))
    rw [units_fTwo] at hq2
    rw [units_fFour] at hq4
    refine magBits_fsub_le_fOne (a := fThree) (by decide) hqfin ?_ ?_ hy <;> rw [units_fThree, units_fOne] <;> omega

/-- The phase is below the period after an update, so the ratio lies in [0, 1] and the ramp in [-1, 1]. -/
theorem triGet_magBits {d : Bool} {isr o : F32} {a b : Phasor} (ha : a.Kept d)
    (hisr : positiveFinite Config.core isr = true) (h : triGet Config.core isr a = .ok (b, o)) :
    F32.magBits b.out ≤ F32.magBits b.volume := by
  obtain ⟨a', n, p, t, y, hu, hp, ht, hy, ho, rfl⟩ := triGet_ok h
  have hkept := phasorUpdate_kept ha hisr hu
  have hpos := (Option.all_eq_true _ _).mp hkept.period p hp
  have hbelow := (Option.all_eq_true _ _).mp hkept.wrapped p hp
  have ht1 := fdiv_inUnit hkept.phase (positiveFinite_iff.mp hpos).1 (F32.units_le_of_le (F32.le_of_lt hbelow)) ht
  have hy1 := triangleRamp_magBits ht1 hy
  obtain ⟨hvol, -⟩ := nonnegFinite_iff.mp (nonnegFinite_of_volumeRange isFinite_fOne hkept.volume)
  obtain ⟨-, rfl⟩ := fmul_ok.mp ho
  exact F32.magBits_mul_le (F32.isFinite_of_magBits_le isFinite_fOne hy1) hvol hy1

/-- The noise output is kept in [0, VOLUME] by the invariant. -/
theorem noiseGet_magBits {d : Bool} {isr o : F32} {g t : Noise} (hg : g.Kept d)
    (hisr : positiveFinite Config.core isr = true) (h : noiseGet Config.core isr g = .ok (t, o)) :
    F32.magBits t.acc.out ≤ F32.magBits t.acc.volume := by
  obtain ⟨ht, -⟩ := noiseGet_kept hg hisr h
  obtain ⟨hvol, -⟩ := nonnegFinite_iff.mp (nonnegFinite_of_volumeRange isFinite_fOne ht.acc.volume)
  exact magBits_le_of_pendingRange hvol ht.held

end Sys2Proof.Machine
end

section
/-! The gets a MIX or a GET has run (44_mixer.md R233, R236), and the bound of the outputs of P1, P2, TRI and NOISE by
the volume (41_phase_accumulator.md R140; O31). -/

namespace Sys2Proof.Machine

section
variable {c : Config} {isr o : F32}

theorem pulseGet_out {g t : Pulse} (h : pulseGet c isr g = .ok (t, o)) : o = t.acc.out := by
  obtain ⟨g', n, p, d, -, -, -, -, rfl⟩ := pulseGet_ok h
  rfl

theorem triGet_out {a b : Phasor} (h : triGet c isr a = .ok (b, o)) : o = b.out := by
  obtain ⟨a', n, p, t, y, -, -, -, -, -, rfl⟩ := triGet_ok h
  rfl

theorem noiseGet_out {g t : Noise} (h : noiseGet c isr g = .ok (t, o)) : o = t.acc.out := by
  obtain ⟨a, n, -, ⟨-, rfl, ho⟩ | ⟨-, num, den, avg, -, -, -, -, rfl⟩⟩ := noiseGet_ok h
  · exact ho
  · rfl

theorem smpGet_out {g t : Smp} (h : smpGet c isr g = .ok (t, o)) : o = t.acc.out := by
  obtain ⟨a, n, -, ⟨-, h⟩ | ⟨-, h⟩ | ⟨-, h⟩⟩ := smpGet_ok h
  · obtain ⟨avg, -, -, rfl⟩ := smpAverage_ok h
    rfl
  · obtain ⟨-, rfl⟩ := smpInterpolate_ok h
    rfl
  · obtain ⟨-, rfl⟩ := smpInterpolate_ok h
    rfl

theorem dsmpGet_out {g t : Dsmp} (h : dsmpGet c isr g = .ok (t, o)) : o = t.out := by
  obtain ⟨g', n, s, -, ⟨-, h⟩ | ⟨-, h⟩ | ⟨-, h⟩⟩ := dsmpGet_ok h
  · obtain ⟨avg, -, -, rfl⟩ := dsmpAverage_ok h
    rfl
  · obtain ⟨-, rfl⟩ := dsmpInterpolate_ok h
    rfl
  · obtain ⟨-, rfl⟩ := dsmpInterpolate_ok h
    rfl

end

/-- The get of the generator a channel names took it from its registers in `s` to those in `t`. -/
def State.Gets (isr : F32) (s t : State) : Channel → Prop
  | .p1 => pulseGet Config.core isr s.p1 = .ok (t.p1, t.p1.acc.out)
  | .p2 => pulseGet Config.core isr s.p2 = .ok (t.p2, t.p2.acc.out)
  | .tri => triGet Config.core isr s.tri = .ok (t.tri, t.tri.out)
  | .noise => noiseGet Config.core isr s.noise = .ok (t.noise, t.noise.acc.out)
  | .smp => smpGet Config.core isr s.smp = .ok (t.smp, t.smp.acc.out)
  | .dsmp => dsmpGet Config.core isr s.dsmp = .ok (t.dsmp, t.dsmp.out)

section
variable {s t : State} {ch : Channel}

theorem tick_gets {isr r : F32} (h : tick Config.core isr ch s = .ok (t, r)) : s.Gets isr t ch := by
  have hget := tick_ok h
  cases ch <;> obtain ⟨g, hg, rfl⟩ := hget
  · obtain rfl := pulseGet_out hg
    exact hg
  · obtain rfl := pulseGet_out hg
    exact hg
  · obtain rfl := triGet_out hg
    exact hg
  · obtain rfl := noiseGet_out hg
    exact hg
  · obtain rfl := smpGet_out hg
    exact hg
  · obtain rfl := dsmpGet_out hg
    exact hg

theorem getBody_gets (h : getBody Config.core ch s = .ok t) : ∃ isr, s.invSr = some isr ∧ s.Gets isr t ch := by
  obtain ⟨isr, s', r, -, hisr, ht, rfl⟩ := getBody_ok h
  have hgets := tick_gets ht
  exact ⟨isr, hisr, by cases ch <;> exact hgets⟩

theorem mixBody_gets (h : mixBody Config.core s = .ok t) :
    ∃ isr, s.invSr = some isr ∧ ∀ ch, s.Gets isr t ch := by
  obtain ⟨isr, p1, p2, tri, noise, smp, dsmp, o0, o1, o2, o3, o4, o5, m, s', y, -, hisr, h0, h1, h2, h3, h4, h5, -, hf,
    rfl⟩ := mixBody_ok h
  obtain ⟨f0, a, f1, b, f2, -, -, -, rfl⟩ := filterChain_ok hf
  obtain rfl := pulseGet_out h0
  obtain rfl := pulseGet_out h1
  obtain rfl := triGet_out h2
  obtain rfl := noiseGet_out h3
  obtain rfl := smpGet_out h4
  obtain rfl := dsmpGet_out h5
  refine ⟨isr, hisr, fun ch => ?_⟩
  cases ch
  · exact h0
  · exact h1
  · exact h2
  · exact h3
  · exact h4
  · exact h5

/-- A MIX runs every get, a GET its channel's. -/
theorem commandBody_gets {i : Instr} (hi : i = .mix ∨ i = .get ch) (h : commandBody i s = .ok t) :
    ∃ isr, s.invSr = some isr ∧ s.Gets isr t ch := by
  obtain rfl | rfl := hi
  · obtain ⟨isr, hisr, hgets⟩ := mixBody_gets h
    exact ⟨isr, hisr, hgets ch⟩
  · exact getBody_gets h

end

/-- Settles O31: the bound of each get, from registers that keep the invariants. -/
theorem outputMagnitudeWithinVolume : Obligations.OutputMagnitudeWithinVolume := by
  intro s t i hinv hs h ht
  have gets {ch : Channel} (hi : i = .mix ∨ i = .get ch) :
      ∃ isr, positiveFinite Config.core isr = true ∧ s.Gets isr t ch := by
    obtain ⟨isr, hisr, hgets⟩ := commandBody_gets hi (commandBody_of_exec hs h ht)
    exact ⟨isr, (Option.all_eq_true _ _).mp hinv.invSr isr hisr, hgets⟩
  refine ⟨fun hi => ?_, fun hi => ?_, fun hi => ?_, fun hi => ?_⟩
  · obtain ⟨isr, -, hget⟩ := gets hi
    exact pulseGet_magBits hget
  · obtain ⟨isr, -, hget⟩ := gets hi
    exact pulseGet_magBits hget
  · obtain ⟨isr, hisr, hget⟩ := gets hi
    exact triGet_magBits hinv.tri hisr hget
  · obtain ⟨isr, hisr, hget⟩ := gets hi
    exact noiseGet_magBits hinv.noise hisr hget

end Sys2Proof.Machine
end

section
/-! Setters do not reach a tick that crosses no period boundary (41_phase_accumulator.md R141, 70_reset_and_hazards.md
R304; O23): such a tick reads no pending register and not METALLIC, so it commutes with a change of them. -/

namespace Sys2Proof.Machine

/-! ## Pending registers exchanged -/

/-- The registers of `a` with the pending ones of `u`. -/
def Phasor.withPendingOf (a u : Phasor) : Phasor :=
  { a with nextPeriod := u.nextPeriod, nextVolume := u.nextVolume }

def Pulse.withPendingOf (g u : Pulse) : Pulse :=
  { g with acc := g.acc.withPendingOf u.acc, nextDuty := u.nextDuty }

/-- METALLIC, which SETMETAL writes, goes with the pending registers. -/
def Noise.withPendingOf (g u : Noise) : Noise :=
  { g with acc := g.acc.withPendingOf u.acc, metallic := u.metallic }

def Smp.withPendingOf (g u : Smp) : Smp := { g with acc := g.acc.withPendingOf u.acc }

def Dsmp.withPendingOf (g u : Dsmp) : Dsmp := { g with nextVolume := u.nextVolume }

/-- `s` with the registers of `u` that setters write (R120 to R123). -/
def State.withPendingOf (s u : State) : State :=
  { s with
    p1 := s.p1.withPendingOf u.p1
    p2 := s.p2.withPendingOf u.p2
    tri := s.tri.withPendingOf u.tri
    noise := s.noise.withPendingOf u.noise
    smp := s.smp.withPendingOf u.smp
    dsmp := s.dsmp.withPendingOf u.dsmp }

@[simp] theorem withPendingOf_out (s u : State) : (s.withPendingOf u).out = s.out := by
  funext ch
  cases ch <;> rfl

/-! ## Gets that do not cross -/

section
variable {isr o : F32} {n : Nat}

theorem phasorUpdate_withPendingOf {a b : Phasor} (hstill : a.crosses isr = false)
    (h : phasorUpdate Config.core isr a = .ok (b, n)) (u : Phasor) :
    phasorUpdate Config.core isr (a.withPendingOf u) = .ok (b.withPendingOf u, n) := by
  obtain ⟨p, hp, ⟨hs, rfl, rfl⟩ | ⟨hs, -⟩⟩ := phasorUpdate_ok h
  · exact phasorUpdate_below hp hs
  · exact nomatch hstill.symm.trans (crosses_of_phaseStep hp hs)

theorem pulseUpdate_withPendingOf {g t : Pulse} (hstill : g.acc.crosses isr = false)
    (h : pulseUpdate Config.core isr g = .ok (t, n)) (u : Pulse) :
    pulseUpdate Config.core isr (g.withPendingOf u) = .ok (t.withPendingOf u, n) := by
  obtain ⟨p, hp, ⟨hs, rfl, rfl⟩ | ⟨hs, -⟩⟩ := pulseUpdate_ok h
  · exact pulseUpdate_below hp hs
  · exact nomatch hstill.symm.trans (crosses_of_phaseStep hp hs)

theorem pulseGet_withPendingOf {g t : Pulse} (hstill : g.acc.crosses isr = false)
    (h : pulseGet Config.core isr g = .ok (t, o)) (u : Pulse) :
    pulseGet Config.core isr (g.withPendingOf u) = .ok (t.withPendingOf u, o) := by
  obtain ⟨g', n, p, d, hu, hp, hd, hl, rfl⟩ := pulseGet_ok h
  exact bind_ok.mpr ⟨_, pulseUpdate_withPendingOf hstill hu u, bind_ok.mpr ⟨p, readWritten_ok.mpr hp,
    bind_ok.mpr ⟨d, readWritten_ok.mpr hd, bind_ok.mpr ⟨o, hl, rfl⟩⟩⟩⟩

theorem triGet_withPendingOf {a b : Phasor} (hstill : a.crosses isr = false)
    (h : triGet Config.core isr a = .ok (b, o)) (u : Phasor) :
    triGet Config.core isr (a.withPendingOf u) = .ok (b.withPendingOf u, o) := by
  obtain ⟨a', n, p, t, y, hu, hp, ht, hy, ho, rfl⟩ := triGet_ok h
  exact bind_ok.mpr ⟨_, phasorUpdate_withPendingOf hstill hu u, bind_ok.mpr ⟨p, readWritten_ok.mpr hp,
    bind_ok.mpr ⟨t, ht, bind_ok.mpr ⟨y, hy, bind_ok.mpr ⟨o, ho, rfl⟩⟩⟩⟩⟩

/-- With n = 0 the noise generator does not advance, so METALLIC is not read. -/
theorem noiseGet_withPendingOf {g t : Noise} (hstill : g.acc.crosses isr = false)
    (h : noiseGet Config.core isr g = .ok (t, o)) (u : Noise) :
    noiseGet Config.core isr (g.withPendingOf u) = .ok (t.withPendingOf u, o) := by
  obtain ⟨a, n, hu, hcases⟩ := noiseGet_ok h
  obtain ⟨hn, -⟩ := phasorUpdate_uncrossed hstill hu
  obtain ⟨-, rfl, rfl⟩ | ⟨hne, -⟩ := hcases
  · exact bind_ok.mpr ⟨_, phasorUpdate_withPendingOf hstill hu u.acc, if_pos hn⟩
  · exact absurd hn hne

theorem smpInterpolate_withPendingOf {g t : Smp} (h : smpInterpolate Config.core g = .ok (t, o)) (u : Smp) :
    smpInterpolate Config.core (g.withPendingOf u) = .ok (t.withPendingOf u, o) := by
  obtain ⟨p, hp, h⟩ := bind_ok.mp h
  obtain ⟨t, ht, h⟩ := bind_ok.mp h
  obtain ⟨y, hy, h⟩ := bind_ok.mp h
  obtain ⟨out, ho, h⟩ := bind_ok.mp h
  cases h
  exact bind_ok.mpr ⟨p, hp, bind_ok.mpr ⟨t, ht, bind_ok.mpr ⟨y, hy, bind_ok.mpr ⟨o, ho, rfl⟩⟩⟩⟩

theorem smpGet_withPendingOf {g t : Smp} (hstill : g.acc.crosses isr = false)
    (h : smpGet Config.core isr g = .ok (t, o)) (u : Smp) :
    smpGet Config.core isr (g.withPendingOf u) = .ok (t.withPendingOf u, o) := by
  obtain ⟨a, n, hu, hcases⟩ := smpGet_ok h
  obtain ⟨rfl, -⟩ := phasorUpdate_uncrossed hstill hu
  obtain ⟨hn, -⟩ | ⟨hn, -⟩ | ⟨-, h⟩ := hcases
  · exact nomatch hn
  · exact nomatch hn
  · exact bind_ok.mpr ⟨_, phasorUpdate_withPendingOf hstill hu u.acc, smpInterpolate_withPendingOf h u⟩

theorem dsmpUpdate_withPendingOf {g t : Dsmp} {s : F32} (hstill : g.crosses isr = false)
    (h : dsmpUpdate Config.core isr g = .ok (t, n, s)) (u : Dsmp) :
    dsmpUpdate Config.core isr (g.withPendingOf u) = .ok (t.withPendingOf u, n, s) := by
  obtain ⟨l, hfin, hl, rfl, rfl, hcases⟩ := dsmpUpdate_ok h
  obtain ⟨hn, -⟩ := dsmpUpdate_uncrossed hstill h
  obtain ⟨-, rfl⟩ | ⟨hne, -⟩ := hcases
  · exact bind_ok.mpr ⟨_, fadd_ok.mpr ⟨hfin, rfl⟩, bind_ok.mpr ⟨l, hl, if_pos hn⟩⟩
  · exact absurd hn hne

theorem dsmpInterpolate_withPendingOf {g t : Dsmp} (h : dsmpInterpolate Config.core isr g = .ok (t, o)) (u : Dsmp) :
    dsmpInterpolate Config.core isr (g.withPendingOf u) = .ok (t.withPendingOf u, o) := by
  obtain ⟨t, ht, h⟩ := bind_ok.mp h
  obtain ⟨y, hy, h⟩ := bind_ok.mp h
  obtain ⟨out, ho, h⟩ := bind_ok.mp h
  cases h
  exact bind_ok.mpr ⟨t, ht, bind_ok.mpr ⟨y, hy, bind_ok.mpr ⟨o, ho, rfl⟩⟩⟩

theorem dsmpGet_withPendingOf {g t : Dsmp} (hstill : g.crosses isr = false)
    (h : dsmpGet Config.core isr g = .ok (t, o)) (u : Dsmp) :
    dsmpGet Config.core isr (g.withPendingOf u) = .ok (t.withPendingOf u, o) := by
  obtain ⟨g', n, s, hu, hcases⟩ := dsmpGet_ok h
  obtain ⟨rfl, -⟩ := dsmpUpdate_uncrossed hstill hu
  obtain ⟨hn, -⟩ | ⟨hn, -⟩ | ⟨-, h⟩ := hcases
  · exact nomatch hn
  · exact nomatch hn
  · exact bind_ok.mpr ⟨_, dsmpUpdate_withPendingOf hstill hu u, dsmpInterpolate_withPendingOf h u⟩

end

/-! ## Ticks that do not cross -/

section
variable {s t : State}

theorem tick_withPendingOf {ch : Channel} {isr r : F32} (hstill : s.crosses isr ch = false)
    (h : tick Config.core isr ch s = .ok (t, r)) (u : State) :
    tick Config.core isr ch (s.withPendingOf u) = .ok (t.withPendingOf u, r) := by
  have hget := tick_ok h
  cases ch <;> obtain ⟨g, hg, rfl⟩ := hget
  · exact bind_ok.mpr ⟨_, pulseGet_withPendingOf hstill hg u.p1, rfl⟩
  · exact bind_ok.mpr ⟨_, pulseGet_withPendingOf hstill hg u.p2, rfl⟩
  · exact bind_ok.mpr ⟨_, triGet_withPendingOf hstill hg u.tri, rfl⟩
  · exact bind_ok.mpr ⟨_, noiseGet_withPendingOf hstill hg u.noise, rfl⟩
  · exact bind_ok.mpr ⟨_, smpGet_withPendingOf hstill hg u.smp, rfl⟩
  · exact bind_ok.mpr ⟨_, dsmpGet_withPendingOf hstill hg u.dsmp, rfl⟩

/-- What the get of a generator that does not cross outputs does not depend on pending registers. -/
theorem gets_out_withPendingOf {ch : Channel} {isr : F32} {u t' : State} (hstill : s.crosses isr ch = false)
    (h : s.Gets isr t ch) (h' : (s.withPendingOf u).Gets isr t' ch) : t'.out ch = t.out ch := by
  cases ch
  · exact congrArg Prod.snd (Except.ok.inj (h'.symm.trans (pulseGet_withPendingOf hstill h u.p1)))
  · exact congrArg Prod.snd (Except.ok.inj (h'.symm.trans (pulseGet_withPendingOf hstill h u.p2)))
  · exact congrArg Prod.snd (Except.ok.inj (h'.symm.trans (triGet_withPendingOf hstill h u.tri)))
  · exact congrArg Prod.snd (Except.ok.inj (h'.symm.trans (noiseGet_withPendingOf hstill h u.noise)))
  · exact congrArg Prod.snd (Except.ok.inj (h'.symm.trans (smpGet_withPendingOf hstill h u.smp)))
  · exact congrArg Prod.snd (Except.ok.inj (h'.symm.trans (dsmpGet_withPendingOf hstill h u.dsmp)))

theorem getBody_withPendingOf {ch : Channel} (hstill : ∀ isr, s.invSr = some isr → s.crosses isr ch = false)
    (h : getBody Config.core ch s = .ok t) (u : State) :
    getBody Config.core ch (s.withPendingOf u) = .ok (t.withPendingOf u) := by
  obtain ⟨isr, s', r, hinit, hisr, ht, rfl⟩ := getBody_ok h
  exact bind_ok.mpr ⟨isr, requireInit_ok.mpr ⟨hinit, hisr⟩,
    bind_ok.mpr ⟨_, tick_withPendingOf (hstill isr hisr) ht u, rfl⟩⟩

theorem filterChain_withPendingOf {x y : F32} (h : filterChain Config.core s x = .ok (t, y)) (u : State) :
    filterChain Config.core (s.withPendingOf u) x = .ok (t.withPendingOf u, y) := by
  obtain ⟨f0, a, f1, b, f2, h0, h1, h2, rfl⟩ := filterChain_ok h
  exact bind_ok.mpr ⟨_, h0, bind_ok.mpr ⟨_, h1, bind_ok.mpr ⟨_, h2, rfl⟩⟩⟩

theorem mixBody_withPendingOf (hstill : ∀ ch isr, s.invSr = some isr → s.crosses isr ch = false)
    (h : mixBody Config.core s = .ok t) (u : State) :
    mixBody Config.core (s.withPendingOf u) = .ok (t.withPendingOf u) := by
  obtain ⟨isr, p1, p2, tri, noise, smp, dsmp, o0, o1, o2, o3, o4, o5, m, s', y, hinit, hisr, h0, h1, h2, h3, h4, h5, hm,
    hf, rfl⟩ := mixBody_ok h
  have still (ch : Channel) : s.crosses isr ch = false := hstill ch isr hisr
  exact bind_ok.mpr ⟨isr, requireInit_ok.mpr ⟨hinit, hisr⟩,
    bind_ok.mpr ⟨_, bind_ok.mpr ⟨_, pulseGet_withPendingOf (still .p1) h0 u.p1, rfl⟩,
    bind_ok.mpr ⟨_, bind_ok.mpr ⟨_, pulseGet_withPendingOf (still .p2) h1 u.p2, rfl⟩,
    bind_ok.mpr ⟨_, bind_ok.mpr ⟨_, triGet_withPendingOf (still .tri) h2 u.tri, rfl⟩,
    bind_ok.mpr ⟨_, bind_ok.mpr ⟨_, noiseGet_withPendingOf (still .noise) h3 u.noise, rfl⟩,
    bind_ok.mpr ⟨_, bind_ok.mpr ⟨_, smpGet_withPendingOf (still .smp) h4 u.smp, rfl⟩,
    bind_ok.mpr ⟨_, bind_ok.mpr ⟨_, dsmpGet_withPendingOf (still .dsmp) h5 u.dsmp, rfl⟩,
    bind_ok.mpr ⟨m, hm, bind_ok.mpr ⟨_, filterChain_withPendingOf hf u, rfl⟩⟩⟩⟩⟩⟩⟩⟩⟩

/-! ## Setters (R120 to R123) -/

/-- A setter changes pending registers and METALLIC alone, whatever those of the state hold. -/
theorem setter_withPendingOf {i : Instr} (hi : i.isSetter = true) {u : State}
    (h : commandBody i (s.withPendingOf u) = .ok t) : ∃ v, t = s.withPendingOf v := by
  cases i with
  | setfreq ch hz =>
    obtain ⟨p, -, rfl⟩ := setfreqBody_ok h
    exact ⟨writeNextPeriod ch p u, by cases ch <;> rfl⟩
  | setvol ch v =>
    obtain ⟨w, -, -, rfl⟩ := setvolBody_ok h
    exact ⟨writeNextVolume ch w u, by cases ch <;> rfl⟩
  | setduty ch d =>
    obtain ⟨-, rfl | rfl⟩ := setdutyBody_ok h
    · exact ⟨{ u with p1 := { u.p1 with nextDuty := some d } }, rfl⟩
    · exact ⟨{ u with p2 := { u.p2 with nextDuty := some d } }, rfl⟩
  | setmetal b =>
    cases h
    exact ⟨{ u with noise := { u.noise with metallic := b } }, rfl⟩
  | init | clear | mix | get | addsample | adddirect => exact nomatch hi

/-- A command that leaves the core in service found it in service and has had its effect. -/
theorem serving_of_exec {i : Instr} (h : exec i s = .next t) (ht : t.faultValid = false) :
    s.faultValid = false ∧ commandBody i s = .ok t := by
  obtain ⟨hv, rfl⟩ | h | ⟨-, c, -, rfl⟩ := exec_cases h
  · exact nomatch ht.symm.trans hv
  · exact h
  · exact nomatch ht

theorem reaches_withPendingOf (h : s.Reaches (fun i => i.isSetter = true) t) (ht : t.faultValid = false) :
    ∃ u, t = s.withPendingOf u := by
  induction h with
  | refl => exact ⟨s, rfl⟩
  | step i _ hi hexec ih =>
    obtain ⟨hs, hbody⟩ := serving_of_exec hexec ht
    obtain ⟨u, rfl⟩ := ih hs
    exact setter_withPendingOf hi hbody

end

/-- Settles O23: setters that do not fault exchange pending registers and METALLIC, and a get that does not cross
commutes with that. -/
theorem settersDoNotTouchAnUncrossedTick : Obligations.SettersDoNotTouchAnUncrossedTick := by
  intro s s' t hreach hs' ht still
  obtain ⟨u, rfl⟩ := reaches_withPendingOf hreach hs'
  refine ⟨fun ch hstill h => ?_, fun h => ⟨fun ch t' hstill h' ht' => ?_, fun hstill => ?_⟩⟩
  · obtain ⟨-, hbody⟩ := serving_of_exec h ht
    exact ⟨t.withPendingOf u, exec_of_commandBody hs' (getBody_withPendingOf hstill hbody u), ht,
      congrFun (withPendingOf_out t u) ch, rfl⟩
  · obtain ⟨-, hbody⟩ := serving_of_exec h ht
    obtain ⟨isr, hisr, hgets⟩ := mixBody_gets hbody
    obtain ⟨isr', hisr', hgets'⟩ := mixBody_gets (commandBody_of_exec hs' h' ht')
    obtain rfl : isr = isr' := Option.some.inj (hisr.symm.trans hisr')
    exact gets_out_withPendingOf (hstill isr hisr) (hgets ch) (hgets' ch)
  · obtain ⟨-, hbody⟩ := serving_of_exec h ht
    exact ⟨t.withPendingOf u, exec_of_commandBody hs' (mixBody_withPendingOf hstill hbody u), ht,
      withPendingOf_out t u, rfl⟩

end Sys2Proof.Machine
end

section
/-! The commands of the sample generators (42_resampling.md R160, R175, R180): ADDSAMPLE (O32), ADDDIRECT (O33) and
CLEAR (O35). -/

namespace Sys2Proof.Machine

/-! ## Operands that are refused (R160, R175) -/

section
variable {c : Config} {x : F32}

theorem sampleOperand_refuses (hx : c.num.isFinite x = false) : sampleOperand c x = .error .badSample :=
  if_neg (Bool.eq_false_iff.mp hx)

theorem directPeriodOperand_refuses (hx : positiveFinite c x = false) :
    directPeriodOperand c x = .error .badDirectPeriod := if_neg (Bool.eq_false_iff.mp hx)

end

/-! ## Commands -/

/-- Settles O32: the operand check decides, and this core's queue takes every sample. -/
theorem addsampleAppendsOrFaults : Obligations.AddsampleAppendsOrFaults := by
  refine fun s x hs => ⟨fun hx => ?_, fun hx => ?_⟩
  · exact exec_of_commandBody hs ((addsampleBody_eq hx).trans (bind_ok.mpr ⟨_, enqueue_core _ _, rfl⟩))
  · exact exec_of_commandBody_error (cause := .badSample) hs (bind_error (sampleOperand_refuses hx))

/-- Settles O33: the two operand checks in their order, and this core's queue takes every entry. -/
theorem adddirectAppendsOrFaults : Obligations.AdddirectAppendsOrFaults := by
  refine fun s p x hs => ⟨fun hpos hfin => ?_, fun hbad => ?_⟩
  · have hp : positiveFinite Config.core p = true := Bool.and_eq_true _ _ |>.mpr ⟨hpos, hfin⟩
    refine ⟨fun hx => ?_, fun hx => ?_⟩
    · exact exec_of_commandBody hs ((adddirectBody_eq hp hx).trans (bind_ok.mpr ⟨_, enqueue_core _ _, rfl⟩))
    · refine exec_of_commandBody_error (i := .adddirect p x) (cause := .badSample) hs ?_
      rw [commandBody, adddirectBody, directPeriodOperand_ok.mpr ⟨hp, rfl⟩]
      exact bind_error (x := sampleOperand Config.core x) (sampleOperand_refuses hx)
  · have hp : positiveFinite Config.core p = false := by
      rw [positiveFinite_core]
      obtain h | h := hbad <;> simp [h]
    exact exec_of_commandBody_error (cause := .badDirectPeriod) hs (bind_error (directPeriodOperand_refuses hp))

/-- Settles O35: the effect of CLEAR is `clearSmp` and `clearDsmp`. -/
theorem clearResetsSampleChannelsOnly : Obligations.ClearResetsSampleChannelsOnly :=
  fun _ hs => exec_of_commandBody hs rfl

end Sys2Proof.Machine
end

section
/-! The output of SMP_GET and the interpolation (42_resampling.md R151, R152, R161; O36, O37). -/

namespace Sys2Proof.F32

/-- Rounding a finite word's own units gives back its units. -/
theorem IsRounding.units_eq {r x : F32} (h : IsRounding (units x) r) (hx : isFinite x = true) :
    isFinite r = true ∧ units r = units x := by
  have hr := h.isFinite_of_abs_le hx le_rfl
  exact ⟨hr, le_antisymm (h.units_le hr hx le_rfl) (h.le_units hr hx le_rfl)⟩

end Sys2Proof.F32

namespace Sys2Proof.Machine

/-! ## The box filter (R161) -/

theorem getD_dequeue_fst (q : List F32) (x : F32) : (dequeue q).1.getD x = q.getD 0 x := by cases q <;> rfl

theorem getD_dequeue_snd (q : List F32) (k : Nat) (x : F32) : (dequeue q).2.getD k x = q.getD (k + 1) x := by
  cases q <;> rfl

/-- The sum of `n` dequeues, in order, and the queue without them. -/
theorem sumSamples_ok {c : Config} {n : Nat} {s r : F32} {q t : List F32} (h : sumSamples c n s q = .ok (r, t)) :
    r = ((List.range n).map fun k => q.getD k fZero).foldl c.num.add s ∧ t = q.drop n := by
  refine ⟨?_, sumSamples_queue h⟩
  induction n generalizing s q with
  | zero => cases h; rfl
  | succ n ih =>
    obtain ⟨s', hs', h⟩ := bind_ok.mp h
    obtain ⟨-, rfl⟩ := fadd_ok.mp hs'
    rw [ih h, getD_dequeue_fst, List.range_succ_eq_map]
    simp only [getD_dequeue_snd, List.map_cons, List.map_map, List.foldl_cons, Function.comp_def]

section
variable {c : Config} {o : F32} {g t : Smp}

/-- `smpAverage_ok` with the count, the average and the output. -/
theorem smpAverage_formula {n : Nat} (h : smpAverage c n g = .ok (t, o)) :
    let sum := ((List.range n).map fun k => g.queue.getD k fZero).foldl c.num.add fZero
    let avg := c.num.div sum (c.num.ofNat n)
    c.num.isFinite (c.num.ofNat n) = true ∧ o = c.num.mul avg g.acc.volume ∧
      t = { acc := { g.acc with out := o }, queue := g.queue.drop n, hPrev := g.hCur, hCur := avg } := by
  obtain ⟨⟨s, q⟩, hsum, h⟩ := bind_ok.mp h
  obtain ⟨k, hk, h⟩ := bind_ok.mp h
  obtain ⟨avg, havg, h⟩ := bind_ok.mp h
  obtain ⟨out, ho, h⟩ := bind_ok.mp h
  cases h
  obtain ⟨rfl, rfl⟩ := sumSamples_ok hsum
  obtain ⟨hfin, rfl⟩ := ffromNat_ok.mp hk
  obtain ⟨-, rfl⟩ := fdiv_ok.mp havg
  obtain ⟨-, rfl⟩ := fmul_ok.mp ho
  exact ⟨hfin, rfl, rfl⟩

/-- `smpInterpolate_ok` with the interpolation it is made of. -/
theorem smpInterpolate_formula (h : smpInterpolate c g = .ok (t, o)) :
    ∃ p y, g.acc.period = some p ∧ interp c g.hPrev g.hCur (c.num.div g.acc.phase p) = .ok y ∧
      o = c.num.mul y g.acc.volume ∧ t = { g with acc := { g.acc with out := o } } := by
  obtain ⟨p, hp, h⟩ := bind_ok.mp h
  obtain ⟨r, hr, h⟩ := bind_ok.mp h
  obtain ⟨y, hy, h⟩ := bind_ok.mp h
  obtain ⟨out, ho, h⟩ := bind_ok.mp h
  cases h
  obtain ⟨-, rfl⟩ := fdiv_ok.mp hr
  obtain ⟨-, rfl⟩ := fmul_ok.mp ho
  exact ⟨p, y, readWritten_ok.mp hp, hy, rfl, rfl⟩

end

theorem smpTake_eq (g : Smp) :
    smpTake g = { g with queue := g.queue.drop 1, hPrev := g.hCur, hCur := g.queue.getD 0 fZero } := by
  unfold smpTake
  cases g.queue <;> rfl

/-- Settles O36: the three branches of SMP_GET, each from the registers its update leaves. -/
theorem bufferedOutputFormula : Obligations.BufferedOutputFormula := by
  intro c isr o g t hc h
  obtain ⟨a, n, hu, hcases⟩ := smpGet_ok h
  refine ⟨a, n, hu, ?_⟩
  obtain ⟨hn, h⟩ | ⟨rfl, h⟩ | ⟨rfl, h⟩ := hcases
  · obtain ⟨-, havg⟩ := smpAverage_formula h
    rw [hc] at havg
    exact ⟨fun _ => havg, fun h1 => absurd h1 hn.ne', fun h0 => absurd h0 (Nat.zero_lt_of_lt hn).ne'⟩
  · have hint := smpInterpolate_formula h
    rw [hc, smpTake_eq] at hint
    exact ⟨fun h1 => absurd h1 (by decide), fun _ => hint, nofun⟩
  · have hint := smpInterpolate_formula h
    rw [hc] at hint
    exact ⟨nofun, nofun, fun _ => hint⟩

/-! ## The interpolation (R152) -/

/-- `r`, where every result of the list is finite, else Fault(NUMERIC) (R265). -/
def checked (c : Config) (rs : List F32) (r : F32) : Except Cause F32 :=
  if rs.all c.num.isFinite then .ok r else .error .numeric

theorem numeric_eq_checked (c : Config) (r : F32) : numeric c r = checked c [r] r := by
  simp only [numeric, checked, List.all_cons, List.all_nil, Bool.and_true]

section
variable {c : Config} {rs rs' : List F32} {r r' : F32} {f : F32 → Except Cause F32}

/-- What follows checked results adds its own checks to theirs. -/
theorem checked_bind (h : f r = checked c rs' r') : (checked c rs r >>= f) = checked c (rs ++ rs') r' := by
  unfold checked at h ⊢
  rw [List.all_append]
  by_cases hrs : rs.all c.num.isFinite = true
  · simp only [hrs, Bool.true_and, if_true]
    exact h
  · simp only [hrs, Bool.false_and, Bool.false_eq_true, if_false]
    rfl

theorem numeric_bind (h : f r = checked c rs r') : (numeric c r >>= f) = checked c (r :: rs) r' := by
  rw [numeric_eq_checked]
  exact checked_bind h

end

theorem raisedCosine_eq_checked (c : Config) (t : F32) :
    let angle := c.num.mul t (c.num.lit .pi)
    let d := c.num.sub (c.num.lit .one) (c.cos angle)
    let mu2 := c.num.mul d (c.num.lit .half)
    raisedCosine c t = checked c [angle, c.cos angle, d, mu2] mu2 :=
  numeric_bind (numeric_bind (numeric_bind (numeric_eq_checked _ _)))

theorem interp_eq_checked (c : Config) (hp hc t : F32) :
    let angle := c.num.mul t (c.num.lit .pi)
    let d := c.num.sub (c.num.lit .one) (c.cos angle)
    let mu2 := c.num.mul d (c.num.lit .half)
    let rest := c.num.sub (c.num.lit .one) mu2
    let y := c.num.add (c.num.mul hp rest) (c.num.mul hc mu2)
    interp c hp hc t =
      checked c [angle, c.cos angle, d, mu2, rest, c.num.mul hp rest, c.num.mul hc mu2, y] y := by
  intro angle d mu2 rest y
  rw [interp, raisedCosine_eq_checked]
  exact checked_bind (numeric_bind (numeric_bind (numeric_bind (numeric_eq_checked _ _))))

theorem raisedCosine_fZero : raisedCosine Config.core fZero = .ok fZero := by decide +kernel

theorem raisedCosine_fOne : raisedCosine Config.core fOne = .ok fOne := by decide +kernel

section
variable {a : F32} (ha : F32.isFinite a = true)
include ha

theorem units_mul_fOne : F32.isFinite (F32.mul a fOne) = true ∧ F32.units (F32.mul a fOne) = F32.units a := by
  have h := F32.isRounding_mul ha isFinite_fOne
  rw [units_fOne, Int.cast_pow, Int.cast_ofNat, mul_div_cancel_right₀ _ (by positivity)] at h
  exact h.units_eq ha

theorem units_mul_fZero : F32.isFinite (F32.mul a fZero) = true ∧ F32.units (F32.mul a fZero) = 0 := by
  have h := F32.isRounding_mul ha isFinite_fZero
  rw [units_fZero, Int.cast_zero, mul_zero, zero_div, ← Int.cast_zero, ← units_fZero] at h
  exact h.units_eq isFinite_fZero

end

/-- INTERP from `mu2`, where the two products are finite and add up to a finite word. -/
theorem interp_of_units {hp hc t mu2 rest x : F32} (hmu : raisedCosine Config.core t = .ok mu2)
    (hrest : fsub Config.core (Config.core.num.lit .one) mu2 = .ok rest) (ha : F32.isFinite (F32.mul hp rest) = true)
    (hb : F32.isFinite (F32.mul hc mu2) = true) (hx : F32.isFinite x = true)
    (h : F32.units (F32.mul hp rest) + F32.units (F32.mul hc mu2) = F32.units x) :
    ∃ r, interp Config.core hp hc t = .ok r ∧ F32.units r = F32.units x := by
  have hsum := F32.isRounding_add ha hb
  rw [← Int.cast_add, h] at hsum
  obtain ⟨hfin, hunits⟩ := hsum.units_eq hx
  exact ⟨_, bind_ok.mpr ⟨mu2, hmu, bind_ok.mpr ⟨rest, hrest, bind_ok.mpr ⟨_, fmul_ok.mpr ⟨ha, rfl⟩,
    bind_ok.mpr ⟨_, fmul_ok.mpr ⟨hb, rfl⟩, fadd_ok.mpr ⟨hfin, rfl⟩⟩⟩⟩⟩, hunits⟩

/-- Settles O37: each operation is checked in turn; at t = 0 the weights are 1 and 0, at t = 1 they are 0 and 1. -/
theorem interpolationIsRaisedCosine : Obligations.InterpolationIsRaisedCosine := by
  refine ⟨fun c hp hc t hnum => ?_, fun hp hc hpfin hcfin => ⟨?_, ?_⟩⟩
  · have h := interp_eq_checked c hp hc t
    rw [hnum] at h
    simp only [binary32_pi, binary32_one, binary32_half, checked, hnum] at h
    exact h
  · obtain ⟨ha, hau⟩ := units_mul_fOne hpfin
    obtain ⟨hb, hbu⟩ := units_mul_fZero hcfin
    exact interp_of_units raisedCosine_fZero (rest := fOne) (by decide +kernel) ha hb hpfin (by rw [hau, hbu, add_zero])
  · obtain ⟨ha, hau⟩ := units_mul_fZero hpfin
    obtain ⟨hb, hbu⟩ := units_mul_fOne hcfin
    exact interp_of_units raisedCosine_fOne (rest := fZero) (by decide +kernel) ha hb hcfin (by rw [hau, hbu, zero_add])

end Sys2Proof.Machine
end

section
/-! The direct-sample generator (42_resampling.md R170 to R172): the loop of its update (O38, O39) and its output
(O40). -/

namespace Sys2Proof.Machine

/-! ## One iteration (R170) -/

section
variable {c : Config} {isr : F32} {l : DirectLoop} (hlt : c.num.lt (l.cur.period isr) l.ph = true)
include hlt

theorem directLoop_zero_of_lt :
    directLoop c isr 0 l = fsub c l.ph (l.cur.period isr) >>= fun _ => .error .countOverflow := if_pos hlt

theorem directLoop_succ_of_lt (room : Nat) : directLoop c isr (room + 1) l =
    fsub c l.ph (l.cur.period isr) >>= fun ph => fadd c l.sum (nextCurrent l.cur l.queue).value >>= fun sum =>
      directLoop c isr room
        { ph := ph, n := l.n + 1, sum := sum, cur := nextCurrent l.cur l.queue, queue := (dequeue l.queue).2 } :=
  if_pos hlt

end

/-- A loop that ends has made at most as many iterations as it was allowed. -/
theorem directLoop_n_le {c : Config} {isr : F32} {room : Nat} {l t : DirectLoop}
    (h : directLoop c isr room l = .ok t) : t.n ≤ l.n + room := by
  induction room generalizing l with
  | zero =>
    by_cases hlt : c.num.lt (l.cur.period isr) l.ph = true
    · rw [directLoop_zero_of_lt hlt] at h
      obtain ⟨_, -, h⟩ := bind_ok.mp h
      exact nomatch h
    · rw [directLoop_of_not_lt (Bool.eq_false_iff.mpr hlt)] at h
      cases h
      exact le_rfl
  | succ room ih =>
    by_cases hlt : c.num.lt (l.cur.period isr) l.ph = true
    · rw [directLoop_succ_of_lt hlt] at h
      obtain ⟨ph, -, h⟩ := bind_ok.mp h
      obtain ⟨sum, -, h⟩ := bind_ok.mp h
      have := ih h
      dsimp only at this
      omega
    · rw [directLoop_of_not_lt (Bool.eq_false_iff.mpr hlt)] at h
      cases h
      exact Nat.le_add_right ..

/-! ## The update after `k` iterations (R170, R171) -/

/-- The loop of DSMP_UPDATE after `k` iterations, by the recursions of Safety.lean. -/
def Dsmp.loopAfter (isr : F32) (g : Dsmp) (k : Nat) : DirectLoop where
  ph := g.phaseAfter isr k
  n := k
  sum := g.sumAfter k
  cur := g.curAfter k
  queue := g.queue.drop k

theorem dequeue_drop {α : Type} (q : List α) (k : Nat) : (dequeue (q.drop k)).2 = q.drop (k + 1) := by
  rw [← List.tail_drop]
  cases q.drop k <;> rfl

/-- A dequeue makes the next entry current, and none where the queue is used up. -/
theorem nextCurrent_curAfter (g : Dsmp) (k : Nat) :
    nextCurrent (g.curAfter k) (g.queue.drop k) = g.curAfter (k + 1) := by
  unfold Dsmp.curAfter
  rcases Nat.lt_or_ge k g.queue.length with hk | hk
  · rw [List.drop_eq_getElem_cons hk, List.take_succ_eq_append_getElem hk, List.getLast?_concat]
    rfl
  · rw [List.drop_eq_nil_of_le hk, List.take_of_length_le hk, List.take_of_length_le (hk.trans (Nat.le_succ k))]
    rfl

/-- One iteration on the state after `k` gives the state after `k + 1`. -/
theorem Dsmp.loopAfter_succ (isr : F32) (g : Dsmp) (k : Nat) :
    let l := g.loopAfter isr k
    g.loopAfter isr (k + 1) =
      { ph := F32.sub l.ph (l.cur.period isr), n := k + 1, sum := F32.add l.sum (nextCurrent l.cur l.queue).value
        cur := nextCurrent l.cur l.queue, queue := (dequeue l.queue).2 } := by
  simp only [Dsmp.loopAfter, nextCurrent_curAfter, dequeue_drop]
  rfl

/-- `l` is the state after its own count of iterations, and the phase exceeded the period before each of them. -/
def Dsmp.Follows (isr : F32) (g : Dsmp) (l : DirectLoop) : Prop :=
  l = g.loopAfter isr l.n ∧ ∀ k < l.n, g.exceeds isr k = true

theorem Dsmp.Follows.succ {isr : F32} {g : Dsmp} {l : DirectLoop} (hl : g.Follows isr l)
    (hlt : F32.lt (l.cur.period isr) l.ph = true) :
    g.Follows isr
      { ph := F32.sub l.ph (l.cur.period isr), n := l.n + 1, sum := F32.add l.sum (nextCurrent l.cur l.queue).value
        cur := nextCurrent l.cur l.queue, queue := (dequeue l.queue).2 } := by
  obtain ⟨hl, hbefore⟩ := hl
  generalize l.n = n at *
  subst hl
  refine ⟨(Dsmp.loopAfter_succ isr g n).symm, fun k hk => ?_⟩
  obtain hk | rfl := Nat.lt_succ_iff_lt_or_eq.mp hk
  · exact hbefore k hk
  · exact hlt

/-- The loop ends in the state after the first count at which the phase no longer exceeds the period. -/
theorem directLoop_follows {c : Config} (hc : c.num = NumFmt.binary32) {isr : F32} {g : Dsmp} {room : Nat}
    {l : DirectLoop} (h : directLoop c isr room (g.loopAfter isr 0) = .ok l) :
    g.Follows isr l ∧ g.exceeds isr l.n = false := by
  obtain ⟨hl, hexit⟩ := directLoop_induction (P := g.Follows isr) (fun l ph sum hl hlt hph hsum => by
    obtain ⟨-, rfl⟩ := fsub_ok.mp hph
    obtain ⟨-, rfl⟩ := fadd_ok.mp hsum
    rw [hc] at hlt ⊢
    exact hl.succ hlt) h ⟨rfl, nofun⟩
  refine ⟨hl, ?_⟩
  obtain ⟨hl, -⟩ := hl
  rw [hl, hc] at hexit
  exact hexit

/-- Settles O38: the loop is in the state `loopAfter` says after each iteration, and a commit follows if there was
one. -/
theorem directUpdateConsumesOneEntryPerIteration : Obligations.DirectUpdateConsumesOneEntryPerIteration := by
  intro c isr s g t n hc h
  obtain ⟨l, -, hloop, rfl, rfl, hcases⟩ := dsmpUpdate_ok h
  have hroom := directLoop_n_le hloop
  rw [hc] at hloop
  obtain ⟨⟨hl, hbefore⟩, hexit⟩ := directLoop_follows (g := g) hc hloop
  refine ⟨by simpa using hroom, hbefore, hexit, congrArg DirectLoop.sum hl, fun h0 => ?_, fun hpos => ?_⟩
  · obtain ⟨-, rfl⟩ | ⟨hne, -⟩ := hcases
    · rw [hl, h0]
      rfl
    · exact absurd h0 hne
  · obtain ⟨h0, -⟩ | ⟨-, hcommit⟩ := hcases
    · exact absurd h0 hpos.ne'
    · obtain ⟨v, hv, rfl⟩ := dsmpCommit_ok hcommit
      refine ⟨v, hv, ?_⟩
      rw [committedVolume_binary32 hc]
      generalize l.n = n at *
      rw [hl]
      rfl

/-! ## A loop without progress (R170, 93 U9) -/

/-- Nothing is queued, the phase exceeds the current period, and subtracting it changes nothing. -/
structure DirectLoop.Stalled (isr : F32) (l : DirectLoop) : Prop where
  queue : l.queue = []
  exceeds : F32.gt l.ph (l.cur.period isr) = true
  finite : F32.isFinite l.ph = true
  sub : F32.sub l.ph (l.cur.period isr) = l.ph

/-- The sum after `k` iterations on an entry that is reused. -/
def DirectLoop.reusedSum (l : DirectLoop) (k : Nat) : F32 := (fun s => F32.add s l.cur.value)^[k] l.sum

/-- The loop after one iteration on an entry that is reused, with no progress. -/
def DirectLoop.reuse (l : DirectLoop) : DirectLoop := { l with n := l.n + 1, sum := F32.add l.sum l.cur.value }

theorem DirectLoop.reusedSum_succ (l : DirectLoop) (k : Nat) : l.reusedSum (k + 1) = l.reuse.reusedSum k :=
  Function.iterate_succ_apply ..

section
variable {isr : F32} {l : DirectLoop} (hl : l.Stalled isr)
include hl

theorem DirectLoop.Stalled.reuse : l.reuse.Stalled isr := { hl with }

theorem DirectLoop.Stalled.fsub_eq : fsub Config.core l.ph (l.cur.period isr) = .ok l.ph :=
  fsub_ok.mpr ⟨(congrArg F32.isFinite hl.sub).trans hl.finite, hl.sub.symm⟩

theorem DirectLoop.Stalled.directLoop_zero : directLoop Config.core isr 0 l = .error .countOverflow := by
  rw [directLoop_zero_of_lt hl.exceeds, hl.fsub_eq]
  rfl

/-- An iteration adds the entry's value to the sum, or faults there. -/
theorem DirectLoop.Stalled.directLoop_succ (room : Nat) : directLoop Config.core isr (room + 1) l =
    if F32.isFinite (F32.add l.sum l.cur.value) then directLoop Config.core isr room l.reuse else .error .numeric := by
  rw [directLoop_succ_of_lt hl.exceeds, hl.fsub_eq, hl.queue]
  change (numeric Config.core (F32.add l.sum l.cur.value) >>= _) = _
  unfold numeric
  rw [core_num, binary32_isFinite]
  split
  · rw [DirectLoop.reuse, hl.queue]
    rfl
  · rfl

end

/-- The outcome of a loop without progress is decided by the first sum that is not finite, if it comes in time. -/
theorem directLoop_stalled {isr : F32} {room : Nat} {l : DirectLoop} (hl : l.Stalled isr) :
    directLoop Config.core isr room l =
      .error (if ∀ k < room, F32.isFinite (l.reusedSum (k + 1)) = true then .countOverflow else .numeric) := by
  induction room generalizing l with
  | zero => simpa using hl.directLoop_zero
  | succ room ih =>
    rw [hl.directLoop_succ, ih hl.reuse]
    simp only [Nat.forall_lt_succ_left, DirectLoop.reusedSum_succ]
    change _ = Except.error (if F32.isFinite (F32.add l.sum l.cur.value) = true ∧ _ then _ else _)
    by_cases hfin : F32.isFinite (F32.add l.sum l.cur.value) = true <;> simp [hfin]

/-- Adding a value up to 2^100 to a sum up to 2^126 keeps the sum up to 2^126. -/
theorem reusedSum_magBits_le {l : DirectLoop} (hs : moderate l.sum = true) (hv : moderate l.cur.value = true)
    (k : Nat) : F32.magBits (l.reusedSum k) ≤ 0x7E800000 := by
  induction k with
  | zero => exact (of_decide_eq_true hs).trans (by decide)
  | succ k ih =>
    rw [DirectLoop.reusedSum, Function.iterate_succ_apply']
    exact F32.magBits_add_le ih (of_decide_eq_true hv)

/-- Settles O39: a stalled loop stays stalled, and sums of moderate values stay finite. -/
theorem directLoopWithoutProgressFaults : Obligations.DirectLoopWithoutProgressFaults := by
  intro isr room l hq hgt hfin hsub
  have hloop := directLoop_stalled (room := room) ⟨hq, hgt, hfin, hsub⟩
  refine ⟨fun h => ?_, fun ⟨k, hk, h⟩ => ?_, fun hs hv => ?_⟩
  · exact hloop.trans (congrArg _ (if_pos h))
  · exact hloop.trans (congrArg _ (if_neg fun hall => Bool.false_ne_true (h.symm.trans (hall k hk))))
  · refine hloop.trans (congrArg _ (if_pos fun k _ => ?_))
    exact decide_eq_true ((reusedSum_magBits_le hs hv (k + 1)).trans_lt (by decide))

/-! ## The output (R172) -/

section
variable {c : Config} {isr o : F32} {g t : Dsmp}

/-- `dsmpAverage_ok` with the count, the average and the output. -/
theorem dsmpAverage_formula {n : Nat} {s : F32} (h : dsmpAverage c n s g = .ok (t, o)) :
    let avg := c.num.div s (c.num.ofNat n)
    c.num.isFinite (c.num.ofNat n) = true ∧ o = c.num.mul avg g.volume ∧
      t = { g with hPrev := g.hCur, hCur := avg, out := o } := by
  obtain ⟨k, hk, h⟩ := bind_ok.mp h
  obtain ⟨avg, havg, h⟩ := bind_ok.mp h
  obtain ⟨out, ho, h⟩ := bind_ok.mp h
  cases h
  obtain ⟨hfin, rfl⟩ := ffromNat_ok.mp hk
  obtain ⟨-, rfl⟩ := fdiv_ok.mp havg
  obtain ⟨-, rfl⟩ := fmul_ok.mp ho
  exact ⟨hfin, rfl, rfl⟩

/-- `dsmpInterpolate_ok` with the interpolation it is made of. -/
theorem dsmpInterpolate_formula (h : dsmpInterpolate c isr g = .ok (t, o)) :
    ∃ y, interp c g.hPrev g.hCur (c.num.div g.phase (g.cur.period isr)) = .ok y ∧
      o = c.num.mul y g.volume ∧ t = { g with out := o } := by
  obtain ⟨r, hr, h⟩ := bind_ok.mp h
  obtain ⟨y, hy, h⟩ := bind_ok.mp h
  obtain ⟨out, ho, h⟩ := bind_ok.mp h
  cases h
  obtain ⟨-, rfl⟩ := fdiv_ok.mp hr
  obtain ⟨-, rfl⟩ := fmul_ok.mp ho
  exact ⟨y, hy, rfl, rfl⟩

end

/-- Settles O40: the three branches of DSMP_GET, each from the registers its update leaves. -/
theorem directOutputFormula : Obligations.DirectOutputFormula := by
  intro c isr o s g g' t n hc hu h
  obtain ⟨g'', n', s', hu', hcases⟩ := dsmpGet_ok h
  cases hu.symm.trans hu'
  obtain ⟨hn, h⟩ | ⟨rfl, h⟩ | ⟨rfl, h⟩ := hcases
  · obtain ⟨-, havg⟩ := dsmpAverage_formula h
    rw [hc] at havg
    exact ⟨fun _ => havg, fun h1 => absurd h1 hn.ne', fun h0 => absurd h0 (Nat.zero_lt_of_lt hn).ne'⟩
  · have hint := dsmpInterpolate_formula h
    rw [hc] at hint
    exact ⟨fun h1 => absurd h1 (by decide), fun _ => hint, nofun⟩
  · have hint := dsmpInterpolate_formula h
    rw [hc] at hint
    exact ⟨nofun, nofun, fun _ => hint⟩

end Sys2Proof.Machine
end

section
/-! Silence after CLEAR (42_resampling.md R184; O41): sample generators that hold no sample output +0.0, and no command
but ADDSAMPLE or ADDDIRECT ends that. -/

namespace Sys2Proof.F32

/-! ## Arithmetic on +0.0 (R12) -/

theorem roundMag_zero {den : Nat} (hd : 0 < den) : roundMag 0 den = 0 :=
  Nat.eq_zero_of_le_zero (roundMag_le_magBits (x := fZero) (by decide) hd (Nat.zero_le _))

theorem signBit_eq_false_of_pos {x : F32} (h : 0 < units x) : signBit x = false :=
  (units_nonneg_iff.mp h.le).resolve_right fun h0 => h.ne' (units_eq_zero_iff.mpr h0)

section
variable {x : F32} (hx : isFinite x = true)
include hx

/-- A product with +0.0 is a zero with the sign of the other factor. -/
theorem mul_fZero_left : mul fZero x = pack (signBit x) 0 := by
  rw [mul_of_isFinite (by decide) hx, show magUnits fZero = 0 by decide, Nat.zero_mul, roundMag_zero (by decide)]
  exact congrArg (pack · 0) (Bool.false_bne _)

theorem mul_fZero_of_signBit (hsign : signBit x = false) : mul fZero x = fZero := by
  rw [mul_fZero_left hx, hsign]
  rfl

theorem div_fZero_of_signBit (h0 : units x ≠ 0) (hsign : signBit x = false) : div fZero x = fZero := by
  rw [div_of_isFinite (by decide) hx h0, show magUnits fZero = 0 by decide, Nat.zero_mul,
    roundMag_zero (magUnits_pos h0), hsign]
  rfl

end

/-- A zero of either sign and +0.0 add up to +0.0. -/
theorem add_zero_fZero (neg : Bool) : add (pack neg 0) fZero = fZero := by cases neg <;> decide

/-- A difference that is not negative has sign +; an exact zero difference from 1.0 does too. -/
theorem signBit_sub_fOne {x : F32} (hx : isFinite x = true) (h : units x ≤ units fOne) :
    signBit (sub fOne x) = false := by
  rw [sub, add_of_isFinite (by decide) ((isFinite_neg x).trans hx), units_neg]
  split
  · exact signBit_pack _ (by decide)
  · rw [ofUnits, signBit_pack _ (roundMag_lt _ _), decide_eq_false_iff_not]
    omega

theorem signBit_mul {a b : F32} (ha : isFinite a = true) (hb : isFinite b = true) :
    signBit (mul a b) = (signBit a != signBit b) := by
  rw [mul_of_isFinite ha hb, signBit_pack _ (roundMag_lt _ _)]

end Sys2Proof.F32

namespace Sys2Proof.Machine

/-! ## Interpolation and average of silence (R152, R161, R172) -/

/-- `mu2` is finite and has sign +, because the cosine does not exceed 1.0. -/
theorem raisedCosine_isFinite_signBit {t mu2 : F32} (h : raisedCosine Config.core t = .ok mu2) :
    F32.isFinite mu2 = true ∧ F32.signBit mu2 = false := by
  obtain ⟨angle, hangle, h⟩ := bind_ok.mp h
  obtain ⟨co, hco, h⟩ := bind_ok.mp h
  obtain ⟨d, hd, h⟩ := bind_ok.mp h
  have hcofin := isFinite_of_numeric hco
  have hdfin := isFinite_of_numeric hd
  have hle : F32.units co ≤ F32.units fOne := by
    obtain ⟨-, rfl⟩ := fcos_ok.mp hco
    exact F32.units_le_of_le (cosF32_bounded (isFinite_of_numeric hangle)).2
  have hdsign : F32.signBit d = false := by
    obtain ⟨-, rfl⟩ := fsub_ok.mp hd
    rw [core_num, binary32_one]
    exact F32.signBit_sub_fOne hcofin hle
  refine ⟨isFinite_of_numeric h, ?_⟩
  obtain ⟨-, rfl⟩ := fmul_ok.mp h
  rw [core_num, binary32_half]
  exact (F32.signBit_mul hdfin (by decide)).trans (by rw [hdsign]; rfl)

theorem interp_silence {t y : F32} (h : interp Config.core fZero fZero t = .ok y) : y = fZero := by
  obtain ⟨mu2, rest, a, b, hmu, hrest, ha, hb, hy⟩ := interp_ok h
  obtain ⟨-, rfl⟩ := fadd_ok.mp hy
  obtain ⟨-, rfl⟩ := fmul_ok.mp ha
  obtain ⟨-, rfl⟩ := fmul_ok.mp hb
  obtain ⟨hmufin, hmusign⟩ := raisedCosine_isFinite_signBit hmu
  simp only [core_num, binary32_add, binary32_mul]
  rw [F32.mul_fZero_left (isFinite_of_numeric hrest), F32.mul_fZero_of_signBit hmufin hmusign]
  exact F32.add_zero_fZero _

/-- +0.0 divided by a count is +0.0. -/
theorem div_silence {n : Nat} (hn : 0 < n) (hfin : F32.isFinite (F32.ofNat n) = true) :
    F32.div fZero (F32.ofNat n) = fZero := by
  have hone : F32.units (F32.ofNat 1) = 2 ^ 149 := by decide +kernel
  have hpos : 0 < F32.units (F32.ofNat n) := (show (0 : Int) < F32.units (F32.ofNat 1) by rw [hone]; decide).trans_le
    (F32.units_ofNat_le hn)
  exact F32.div_fZero_of_signBit hfin hpos.ne' (F32.signBit_pack _ (F32.roundMag_lt _ _))

/-- An active volume has sign +. -/
theorem mul_silence {top v : F32} (htop : F32.isFinite top = true) (hv : volumeRange top v = true) :
    F32.mul fZero v = fZero := by
  refine F32.mul_fZero_of_signBit (nonnegFinite_iff.mp (nonnegFinite_of_volumeRange htop hv)).1 ?_
  rw [volumeRange, Bool.or_eq_true, Bool.and_eq_true, decide_eq_true_eq] at hv
  obtain rfl | ⟨hlo, -⟩ := hv
  · rfl
  · have hpos : 0 < F32.units volThreshold := by decide +kernel
    exact F32.signBit_eq_false_of_pos (hpos.trans_le (F32.units_le_of_le hlo))

/-! ## SMP (R161) -/

/-- SMP holds no sample: its queue is empty and its history is +0.0. -/
structure Smp.Silent (g : Smp) : Prop where
  queue : g.queue = []
  history : g.hPrev = fZero ∧ g.hCur = fZero

theorem foldl_add_silence (n : Nat) :
    ((List.range n).map fun k => ([] : List F32).getD k fZero).foldl F32.add fZero = fZero := by
  induction n with
  | zero => rfl
  | succ n ih =>
    rw [List.range_succ, List.map_append, List.foldl_append, ih, List.map_singleton, List.getD_nil]
    exact F32.add_zero_fZero false

theorem smpGet_silence {d : Bool} {isr o : F32} {g t : Smp} (hg : g.Kept d)
    (hisr : positiveFinite Config.core isr = true) (hs : g.Silent) (h : smpGet Config.core isr g = .ok (t, o)) :
    t.Silent ∧ o = fZero := by
  obtain ⟨hq, hprev, hcur⟩ := hs
  obtain ⟨a, n, hu, hcases⟩ := smpGet_ok h
  have hvol := mul_silence isFinite_fOne (phasorUpdate_kept hg.acc hisr hu).volume
  obtain ⟨hn, h⟩ | ⟨-, h⟩ | ⟨-, h⟩ := hcases
  · obtain ⟨hfin, rfl, rfl⟩ := smpAverage_formula h
    have havg : F32.div _ (F32.ofNat n) = fZero :=
      (congrArg (F32.div · _) (hq ▸ foldl_add_silence n)).trans (div_silence (Nat.zero_lt_of_lt hn) hfin)
    exact ⟨⟨by rw [hq]; exact List.drop_nil, hcur, havg⟩, (congrArg (F32.mul · _) havg).trans hvol⟩
  · obtain ⟨p, y, -, hy, rfl, rfl⟩ := smpInterpolate_formula h
    rw [smpTake_eq] at hy ⊢
    simp only [hq, hcur, List.getD_nil] at hy ⊢
    obtain rfl := interp_silence hy
    exact ⟨⟨rfl, rfl, rfl⟩, hvol⟩
  · obtain ⟨p, y, -, hy, rfl, rfl⟩ := smpInterpolate_formula h
    simp only [hprev, hcur] at hy
    obtain rfl := interp_silence hy
    exact ⟨⟨hq, hprev, hcur⟩, hvol⟩

/-! ## DSMP (R170 to R172) -/

/-- DSMP holds no entry: its queue is empty, none is current, and its history is +0.0. -/
structure Dsmp.Silent (g : Dsmp) : Prop where
  queue : g.queue = []
  cur : g.cur = .idle
  history : g.hPrev = fZero ∧ g.hCur = fZero

/-- However often the loop iterates, it finds no entry and sums +0.0. -/
theorem directLoop_silence {isr : F32} {room : Nat} {l t : DirectLoop} (hq : l.queue = []) (hcur : l.cur = .idle)
    (hsum : l.sum = fZero) (h : directLoop Config.core isr room l = .ok t) :
    t.queue = [] ∧ t.cur = .idle ∧ t.sum = fZero := by
  have hstep (l : DirectLoop) (sum : F32) (hl : l.queue = [] ∧ l.cur = .idle ∧ l.sum = fZero)
      (h : fadd Config.core l.sum (nextCurrent l.cur l.queue).value = .ok sum) :
      (dequeue l.queue).2 = [] ∧ nextCurrent l.cur l.queue = .idle ∧ sum = fZero := by
    obtain ⟨hq, hcur, hsum⟩ := hl
    rw [hq, hcur, hsum] at h
    obtain ⟨-, rfl⟩ := fadd_ok.mp h
    rw [hq, hcur]
    exact ⟨rfl, rfl, F32.add_zero_fZero false⟩
  exact (directLoop_induction (P := fun l => l.queue = [] ∧ l.cur = .idle ∧ l.sum = fZero)
    (fun l _ sum hl _ _ hsum => hstep l sum hl hsum) h ⟨hq, hcur, hsum⟩).1

theorem dsmpUpdate_silence {isr s : F32} {g t : Dsmp} {n : Nat} (hs : g.Silent)
    (h : dsmpUpdate Config.core isr g = .ok (t, n, s)) : t.Silent ∧ s = fZero := by
  obtain ⟨l, -, hl, -, rfl, hcases⟩ := dsmpUpdate_ok h
  obtain ⟨hq, hcur, hsum⟩ := directLoop_silence hs.queue hs.cur rfl hl
  refine ⟨?_, hsum⟩
  obtain ⟨-, rfl⟩ | ⟨-, hcommit⟩ := hcases
  · exact ⟨hq, hcur, hs.history⟩
  · obtain ⟨v, -, rfl⟩ := dsmpCommit_ok hcommit
    exact ⟨hq, hcur, hs.history⟩

theorem dsmpGet_silence {isr o : F32} {g t : Dsmp} (hg : g.Kept (some isr))
    (hisr : positiveFinite Config.core isr = true) (hs : g.Silent) (h : dsmpGet Config.core isr g = .ok (t, o)) :
    t.Silent ∧ o = fZero := by
  obtain ⟨g', n, s, hu, hcases⟩ := dsmpGet_ok h
  obtain ⟨⟨hq, hidle, hprev, hcur⟩, rfl⟩ := dsmpUpdate_silence hs hu
  have hvol := mul_silence isFinite_directGain (dsmpUpdate_kept hg hisr hu).volume
  obtain ⟨hn, h⟩ | ⟨-, h⟩ | ⟨-, h⟩ := hcases
  · obtain ⟨hfin, rfl, rfl⟩ := dsmpAverage_formula h
    have havg : F32.div fZero (F32.ofNat n) = fZero := div_silence (Nat.zero_lt_of_lt hn) hfin
    exact ⟨⟨hq, hidle, hcur, havg⟩, (congrArg (F32.mul · _) havg).trans hvol⟩
  · obtain ⟨y, hy, rfl, rfl⟩ := dsmpInterpolate_formula h
    simp only [pushDsmp, hidle, hcur, Current.value] at hy ⊢
    obtain rfl := interp_silence hy
    exact ⟨⟨hq, rfl, rfl, rfl⟩, hvol⟩
  · obtain ⟨y, hy, rfl, rfl⟩ := dsmpInterpolate_formula h
    simp only [hprev, hcur] at hy
    obtain rfl := interp_silence hy
    exact ⟨⟨hq, hidle, hprev, hcur⟩, hvol⟩

/-! ## Commands (R184) -/

section
variable {s t : State}

/-- What a run of commands keeps, from a state that keeps the invariants: each effect on a served core must keep it. -/
theorem State.Reaches.keeps {allowed : Instr → Prop} {P : State → Prop}
    (heffect : ∀ i s t, allowed i → s.Inv → P s → commandBody i s = .ok t → P t)
    (hs : s.Inv) (hP : s.faultValid = false → P s) (h : s.Reaches allowed t) :
    t.Inv ∧ (t.faultValid = false → P t) := by
  induction h with
  | refl => exact ⟨hs, hP⟩
  | step i _ hi hexec ih =>
    obtain ⟨hinv, hkept⟩ := ih
    refine ⟨exec_inv hinv hexec, fun ht => ?_⟩
    obtain ⟨hserve, hbody⟩ := serving_of_exec hexec ht
    exact heffect i _ _ hi hinv (hkept hserve) hbody

/-- A get of SMP in a state that keeps the invariants. -/
theorem gets_smp_silence {isr : F32} (hs : s.Inv) (hisr : s.invSr = some isr) (hq : s.smp.Silent)
    (h : s.Gets isr t .smp) : t.smp.Silent ∧ t.smp.acc.out = fZero :=
  smpGet_silence hs.smp ((Option.all_eq_true _ _).mp hs.invSr isr hisr) hq h

/-- A get of DSMP in a state that keeps the invariants. -/
theorem gets_dsmp_silence {isr : F32} (hs : s.Inv) (hisr : s.invSr = some isr) (hq : s.dsmp.Silent)
    (h : s.Gets isr t .dsmp) : t.dsmp.Silent ∧ t.dsmp.out = fZero :=
  dsmpGet_silence (hisr ▸ hs.dsmp) ((Option.all_eq_true _ _).mp hs.invSr isr hisr) hq h

/-- No command but ADDSAMPLE gives SMP a sample. -/
theorem commandBody_smp_silent {i : Instr} (hi : ∀ x, i ≠ .addsample x) (hs : s.Inv) (hq : s.smp.Silent)
    (h : commandBody i s = .ok t) : t.smp.Silent := by
  cases i with
  | init sr =>
    obtain ⟨isr, f0, f1, f2, -, -, -, -, rfl⟩ := initBody_ok h
    exact ⟨rfl, rfl, rfl⟩
  | clear =>
    cases h
    exact ⟨rfl, rfl, rfl⟩
  | mix =>
    obtain ⟨isr, hisr, hgets⟩ := mixBody_gets h
    exact (gets_smp_silence hs hisr hq (hgets .smp)).1
  | get ch =>
    by_cases hch : ch = .smp
    · subst hch
      obtain ⟨isr, hisr, hget⟩ := getBody_gets h
      exact (gets_smp_silence hs hisr hq hget).1
    · obtain ⟨-, -, ⟨-, -, -, -, hsame, -⟩, -⟩ := getBody_frame h
      exact hsame hch ▸ hq
  | setfreq | setvol | setduty | setmetal =>
    obtain ⟨v, rfl⟩ := setter_withPendingOf (s := s) (u := s) rfl h
    exact ⟨hq.queue, hq.history⟩
  | addsample x => exact absurd rfl (hi x)
  | adddirect p x =>
    obtain ⟨q, -, -, -, rfl⟩ := adddirectBody_ok h
    exact hq

/-- No command but ADDDIRECT gives DSMP an entry. -/
theorem commandBody_dsmp_silent {i : Instr} (hi : ∀ p x, i ≠ .adddirect p x) (hs : s.Inv) (hq : s.dsmp.Silent)
    (h : commandBody i s = .ok t) : t.dsmp.Silent := by
  cases i with
  | init sr =>
    obtain ⟨isr, f0, f1, f2, -, -, -, -, rfl⟩ := initBody_ok h
    exact ⟨rfl, rfl, rfl, rfl⟩
  | clear =>
    cases h
    exact ⟨rfl, rfl, rfl, rfl⟩
  | mix =>
    obtain ⟨isr, hisr, hgets⟩ := mixBody_gets h
    exact (gets_dsmp_silence hs hisr hq (hgets .dsmp)).1
  | get ch =>
    by_cases hch : ch = .dsmp
    · subst hch
      obtain ⟨isr, hisr, hget⟩ := getBody_gets h
      exact (gets_dsmp_silence hs hisr hq hget).1
    · obtain ⟨-, -, ⟨-, -, -, -, -, hsame, -⟩, -⟩ := getBody_frame h
      exact hsame hch ▸ hq
  | setfreq | setvol | setduty | setmetal =>
    obtain ⟨v, rfl⟩ := setter_withPendingOf (s := s) (u := s) rfl h
    exact ⟨hq.queue, hq.cur, hq.history⟩
  | addsample x =>
    obtain ⟨q, -, -, rfl⟩ := addsampleBody_ok h
    exact hq
  | adddirect p x => exact absurd rfl (hi p x)

/-- A GET's result is the output of its channel (R236). -/
theorem getBody_results {ch : Channel} (h : getBody Config.core ch s = .ok t) :
    t.results = s.results ++ [t.out ch] := by
  obtain ⟨isr, s', r, -, -, ht, rfl⟩ := getBody_ok h
  obtain ⟨-, -, -, hresults, -⟩ := tick_frame ht
  have hout : r = (putResult r s').out ch := by
    have hget := tick_ok ht
    cases ch <;> obtain ⟨g, hg, rfl⟩ := hget
    · exact pulseGet_out hg
    · exact pulseGet_out hg
    · exact triGet_out hg
    · exact noiseGet_out hg
    · exact smpGet_out hg
    · exact dsmpGet_out hg
  rw [← hout, putResult_results, hresults]

/-- A get whose output is +0.0 shows in the result of the channel's GET and in OUT after a MIX. -/
theorem gets_silence {ch : Channel} (ht : t.faultValid = false)
    (hget : s.faultValid = false → ∀ isr, s.invSr = some isr → s.Gets isr t ch → t.out ch = fZero) :
    (exec (.get ch) s = .next t → t.results = s.results ++ [fZero]) ∧ (exec .mix s = .next t → t.out ch = fZero) := by
  have out {i : Instr} (hi : i = .mix ∨ i = .get ch) (h : exec i s = .next t) : t.out ch = fZero := by
    obtain ⟨hs, hbody⟩ := serving_of_exec h ht
    obtain ⟨isr, hisr, hgets⟩ := commandBody_gets hi hbody
    exact hget hs isr hisr hgets
  refine ⟨fun h => ?_, out (.inl rfl)⟩
  rw [getBody_results (serving_of_exec h ht).2, out (.inr rfl) h]

end

/-- Settles O41: silence holds after CLEAR, every allowed command keeps it, and a get of a silent generator outputs
+0.0. -/
theorem starvationAfterClearIsSilence : Obligations.StarvationAfterClearIsSilence := by
  intro s t u w hinv hclear hw
  have ht := exec_inv hinv hclear
  have cleared (hserve : t.faultValid = false) : t = { s with smp := clearSmp s.smp, dsmp := clearDsmp s.dsmp } := by
    obtain ⟨-, hbody⟩ := serving_of_exec hclear hserve
    cases hbody
    rfl
  refine ⟨fun hreach => ?_, fun hreach => ?_⟩
  · obtain ⟨hu, hsilent⟩ := hreach.keeps (P := fun s => s.smp.Silent)
      (fun _ _ _ hi hs hq h => commandBody_smp_silent hi hs hq h) ht
      (fun hserve => cleared hserve ▸ ⟨rfl, rfl, rfl⟩)
    exact gets_silence (ch := .smp) hw fun hserve isr hisr hget =>
      (gets_smp_silence hu hisr (hsilent hserve) hget).2
  · obtain ⟨hu, hsilent⟩ := hreach.keeps (P := fun s => s.dsmp.Silent)
      (fun _ _ _ hi hs hq h => commandBody_dsmp_silent hi hs hq h) ht
      (fun hserve => cleared hserve ▸ ⟨rfl, rfl, rfl, rfl⟩)
    exact gets_silence (ch := .dsmp) hw fun hserve isr hisr hget =>
      (gets_dsmp_silence hu hisr (hsilent hserve) hget).2

end Sys2Proof.Machine
end

section
/-! The filters of 43_filters.md: the recurrences they apply (R203, R204; O42) and the range of the coefficients INIT
gives them (R201, R202, R205; O46, O47). -/

namespace Sys2Proof.Machine

/-! ## The recurrences (R203, R204) -/

section
variable {c : Config} {x y : F32}

theorem applyHighPass_formula {f t : HighPass} (h : applyHighPass c f x = .ok (t, y)) :
    ∃ k, f.alpha = some k ∧ y = c.num.add (c.num.mul k f.yPrev) (c.num.mul k (c.num.sub x f.xPrev)) := by
  obtain ⟨k, hk, h⟩ := bind_ok.mp h
  obtain ⟨a, ha, h⟩ := bind_ok.mp h
  obtain ⟨d, hd, h⟩ := bind_ok.mp h
  obtain ⟨b, hb, h⟩ := bind_ok.mp h
  obtain ⟨y', hy, h⟩ := bind_ok.mp h
  cases h
  obtain ⟨-, rfl⟩ := fmul_ok.mp ha
  obtain ⟨-, rfl⟩ := fsub_ok.mp hd
  obtain ⟨-, rfl⟩ := fmul_ok.mp hb
  obtain ⟨-, rfl⟩ := fadd_ok.mp hy
  exact ⟨k, readWritten_ok.mp hk, rfl⟩

theorem applyLowPass_formula {f t : LowPass} (h : applyLowPass c f x = .ok (t, y)) :
    ∃ k, f.alpha = some k ∧ y = c.num.add f.yPrev (c.num.mul k (c.num.sub x f.yPrev)) := by
  obtain ⟨k, hk, h⟩ := bind_ok.mp h
  obtain ⟨d, hd, h⟩ := bind_ok.mp h
  obtain ⟨b, hb, h⟩ := bind_ok.mp h
  obtain ⟨y', hy, h⟩ := bind_ok.mp h
  cases h
  obtain ⟨-, rfl⟩ := fsub_ok.mp hd
  obtain ⟨-, rfl⟩ := fmul_ok.mp hb
  obtain ⟨-, rfl⟩ := fadd_ok.mp hy
  exact ⟨k, readWritten_ok.mp hk, rfl⟩

end

/-- Settles O42: the output is the recurrence in its written order, and the update writes the memories alone. -/
theorem filterRecurrences : Obligations.FilterRecurrences := by
  refine ⟨fun f t x y h => ?_, fun f t x y h => ?_⟩
  · obtain ⟨k, hk, hy⟩ := applyHighPass_formula h
    exact ⟨k, hk, hy, (applyHighPass_ok h).2⟩
  · obtain ⟨k, hk, hy⟩ := applyLowPass_formula h
    exact ⟨k, hk, hy, (applyLowPass_ok h).2⟩

/-! ## The coefficients after INIT (R201, R202, R205) -/

/-- A quotient of a word of at least 2^-21 by a word that is not negative does not round to zero. -/
theorem fdiv_pos {a b x : F32} (ha : F32.isFinite a = true) (hlow : 2 ^ 128 ≤ F32.units a)
    (hb : nonnegFinite b = true) (h : fdiv Config.core a b = .ok x) : 0 < F32.units x := by
  obtain ⟨hbfin, hb0⟩ := nonnegFinite_iff.mp hb
  have hne := units_ne_zero_of_fdiv hbfin h
  obtain ⟨hfin, rfl⟩ := fdiv_ok.mp h
  have hpos : (0 : ℚ) < F32.units b := by exact_mod_cast lt_of_le_of_ne hb0 hne.symm
  have hmax : (F32.units b : ℚ) ≤ 2 ^ 277 := by
    rw [← abs_of_pos hpos, F32.abs_units]
    exact_mod_cast F32.magUnits_le_two_pow hbfin
  have hquot : (1 : ℚ) ≤ F32.units a * 2 ^ 149 / F32.units b := by
    rw [one_le_div hpos]
    calc (F32.units b : ℚ) ≤ 2 ^ 277 := hmax
      _ = 2 ^ 128 * 2 ^ 149 := pow_add 2 128 149
      _ ≤ F32.units a * 2 ^ 149 := mul_le_mul_of_nonneg_right (by exact_mod_cast hlow) (by positivity)
  have hunit : F32.units 0x00000001#32 = 1 := by decide
  have hle := (F32.isRounding_div ha hbfin hne).le_units (x := 0x00000001#32) hfin (by decide)
    (by rwa [hunit, Int.cast_one])
  rw [hunit] at hle
  exact hle

theorem filterRC_cutoff0 : filterRC Config.core cutoff0 = .ok 0x3AE7C943#32 := by decide +kernel
theorem filterRC_cutoff1 : filterRC Config.core cutoff1 = .ok 0x39BDA4AB#32 := by decide +kernel

/-- RC of either high-pass cutoff is at least 2^-21. -/
theorem filterRC_cutoff_ge {l : Literal} {rc : F32} (hl : l = .cutoff0 ∨ l = .cutoff1)
    (h : filterRC Config.core (Config.core.num.lit l) = .ok rc) : 2 ^ 128 ≤ F32.units rc := by
  obtain rfl | rfl := hl
  · rw [core_num, binary32_cutoff0, filterRC_cutoff0] at h
    cases h
    decide +kernel
  · rw [core_num, binary32_cutoff1, filterRC_cutoff1] at h
    cases h
    decide +kernel

theorem highPassAlpha_pos {isr alpha : F32} {l : Literal} (hl : l = .cutoff0 ∨ l = .cutoff1)
    (hisr : nonnegFinite isr = true) (h : highPassAlpha Config.core isr (Config.core.num.lit l) = .ok alpha) :
    0 < F32.units alpha := by
  obtain ⟨rc, h1, h⟩ := bind_ok.mp h
  obtain ⟨den, h2, h⟩ := bind_ok.mp h
  have hfc : nonnegFinite (Config.core.num.lit l) = true := nonnegFinite_literal (by obtain rfl | rfl := hl <;> decide)
  have hrc := filterRC_nonneg hfc h1
  exact fdiv_pos (nonnegFinite_iff.mp hrc).1 (filterRC_cutoff_ge hl h1) (fadd_nonneg hrc hisr h2) h

theorem lowPassAlpha_pos {sr fc alpha : F32} (hsr : nonnegFinite sr = true) (hfc : nonnegFinite fc = true)
    (h : lowPassAlpha Config.core sr fc = .ok alpha) : 0 < F32.units alpha := by
  obtain ⟨rc, h1, h⟩ := bind_ok.mp h
  obtain ⟨m, h2, h⟩ := bind_ok.mp h
  obtain ⟨den, h3, h⟩ := bind_ok.mp h
  rw [core_num, binary32_one] at h3 h
  have hm := fmul_nonneg (filterRC_nonneg hfc h1) hsr h2
  have hden := fadd_nonneg (nonnegFinite_iff.mpr ⟨isFinite_fOne, by decide +kernel⟩) hm h3
  exact fdiv_pos isFinite_fOne (by decide +kernel) hden h

theorem highPassInit_alpha {c : Config} {isr sr fc : F32} {f : HighPass} (h : highPassInit c isr sr fc = .ok f) :
    ∃ alpha, highPassAlpha c isr fc = .ok alpha ∧ f.alpha = some alpha := by
  obtain ⟨alpha, ha, h⟩ := bind_ok.mp h
  cases h
  exact ⟨alpha, ha, rfl⟩

theorem lowPassInit_alpha {c : Config} {sr fc : F32} {f : LowPass} (h : lowPassInit c sr fc = .ok f) :
    ∃ alpha, lowPassAlpha c sr fc = .ok alpha ∧ f.alpha = some alpha := by
  obtain ⟨alpha, ha, h⟩ := bind_ok.mp h
  cases h
  exact ⟨alpha, ha, rfl⟩

/-- The interval (0, 1] as the comparisons of R12 write it. -/
theorem gt_fZero_and_le_fOne {x : F32} (hx : inUnit Config.core x = true) (hpos : 0 < F32.units x) :
    F32.gt x fZero = true ∧ F32.le x fOne = true := by
  obtain ⟨hnonneg, hle⟩ := inUnit_iff.mp hx
  obtain ⟨hfin, -⟩ := nonnegFinite_iff.mp hnonneg
  exact ⟨(F32.lt_iff_units isFinite_fZero hfin).mpr (units_fZero ▸ hpos), (F32.le_iff_units hfin isFinite_fOne).mpr hle⟩

theorem highPassAlpha_range {isr alpha : F32} {l : Literal} (hl : l = .cutoff0 ∨ l = .cutoff1)
    (hisr : nonnegFinite isr = true) (h : highPassAlpha Config.core isr (Config.core.num.lit l) = .ok alpha) :
    F32.gt alpha fZero = true ∧ F32.le alpha fOne = true :=
  have hfc := nonnegFinite_literal (l := l) (by obtain rfl | rfl := hl <;> decide)
  gt_fZero_and_le_fOne (highPassAlpha_inUnit hisr hfc h) (highPassAlpha_pos hl hisr h)

theorem lowPassAlpha_range {sr fc alpha : F32} (hsr : nonnegFinite sr = true) (hfc : nonnegFinite fc = true)
    (h : lowPassAlpha Config.core sr fc = .ok alpha) : F32.gt alpha fZero = true ∧ F32.le alpha fOne = true :=
  gt_fZero_and_le_fOne (lowPassAlpha_inUnit hsr hfc h) (lowPassAlpha_pos hsr hfc h)

/-- Settles O46: each coefficient is a quotient by a sum no smaller than its dividend, so at most 1; and the dividends,
RC and 1.0, are too large for a quotient by a finite sum to round to zero. -/
theorem filterCoefficientsInUnitInterval : Obligations.FilterCoefficientsInUnitInterval := by
  intro sr s t h ht
  obtain ⟨-, hbody⟩ := serving_of_exec h ht
  obtain ⟨isr, f0, f1, f2, hsr, h0, h1, h2, rfl⟩ := initBody_ok hbody
  obtain ⟨hsr, hisr⟩ := sampleRatePeriod_ok hsr
  have hisr := nonnegFinite_of_positiveFinite hisr
  obtain ⟨a0, h0, ha0⟩ := highPassInit_alpha h0
  obtain ⟨a1, h1, ha1⟩ := highPassInit_alpha h1
  obtain ⟨a2, h2, ha2⟩ := lowPassInit_alpha h2
  refine ⟨a0, a1, a2, ha0, ha1, ha2, ?_⟩
  simp only [List.forall_mem_cons, List.not_mem_nil, false_implies, implies_true, and_true]
  exact ⟨highPassAlpha_range (.inl rfl) hisr h0, highPassAlpha_range (.inr rfl) hisr h1,
    lowPassAlpha_range (nonnegFinite_of_positiveFinite hsr) (nonnegFinite_literal (by decide)) h2⟩

/-- At the largest finite rate RC + INV_SR rounds to RC, so the quotient of the two is 1.0 (R201). -/
theorem exec_init_largest_rate : ∃ t, exec (.init 0x7F7FFFFF#32) State.reset = .next t ∧ t.faultValid = false ∧
    t.f0.alpha = some fOne := ⟨_, rfl, by decide +kernel⟩

/-- Refutes O47: INIT 0x7F7FFFFF on the core after reset succeeds and sets F0.ALPHA to 1.0. -/
theorem not_highPassCoefficientBelowOne : ¬ Obligations.HighPassCoefficientBelowOne := by
  intro h
  obtain ⟨t, hexec, hserve, hone⟩ := exec_init_largest_rate
  obtain ⟨a, ha, hlt⟩ := h _ _ t hexec hserve
  cases ha.symm.trans hone
  exact Bool.false_ne_true ((F32.lt_irrefl fOne).symm.trans hlt)

end Sys2Proof.Machine
end

section
/-! The mixer (44_mixer.md): the clamp (R234, R238; O43, O44), and GET and MIX from gets that succeed (R233, R236; O48,
O49). -/

namespace Sys2Proof.Machine

/-! ## The clamp (R234, R238) -/

theorem clamp_core (m : F32) : clamp Config.core m =
    if F32.lt clampHi m then clampHi else if F32.lt m clampLo then clampLo else m := by
  simp only [clamp, core_num, binary32_lt, binary32_clampHi, binary32_clampLo]

/-- Settles O43: the branches of the clamp, and no word lies both above CLAMP_HI and below CLAMP_LO. -/
theorem clampLimits : Obligations.ClampLimits := by
  intro m
  rw [clamp_core]
  refine ⟨fun hhi => if_pos hhi, fun hlo => ?_, fun hhi hlo => ?_⟩
  · have hhi : ¬ F32.lt clampHi m = true := fun hhi => by
      have hle := (F32.units_le_of_le (F32.le_of_lt hhi)).trans (F32.units_le_of_le (F32.le_of_lt hlo))
      exact absurd hle (by decide +kernel)
    exact (if_neg hhi).trans (if_pos hlo)
  · exact (if_neg (Bool.eq_false_iff.mp hhi)).trans (if_neg (Bool.eq_false_iff.mp hlo))

/-- What is not above CLAMP_HI is at most it, and what is not below CLAMP_LO at least that. -/
theorem clamp_range {m : F32} (hm : F32.isFinite m = true) :
    F32.le clampLo (clamp Config.core m) = true ∧ F32.le (clamp Config.core m) clampHi = true := by
  have hlofin : F32.isFinite clampLo = true := by decide
  have hhifin : F32.isFinite clampHi = true := by decide
  rw [clamp_core]
  split
  · decide +kernel
  · rename_i hhi
    split
    · decide +kernel
    · rename_i hlo
      rw [F32.lt_iff_units hhifin hm, not_lt, ← F32.le_iff_units hm hhifin] at hhi
      rw [F32.lt_iff_units hm hlofin, not_lt, ← F32.le_iff_units hlofin hm] at hlo
      exact ⟨hlo, hhi⟩

/-- Settles O44: the result of a MIX is the clamp of what F2 answers, which is finite. -/
theorem mixResultWithinClamp : Obligations.MixResultWithinClamp := by
  intro s t hs h ht
  obtain ⟨_, _, _, _, _, _, _, _, _, _, _, _, _, _, s', y, -, -, -, -, -, -, -, -, -, hf, rfl⟩ :=
    mixBody_ok (commandBody_of_exec hs h ht)
  obtain ⟨f0, a, f1, b, f2, -, -, hlow, rfl⟩ := filterChain_ok hf
  obtain ⟨hy, -⟩ := applyLowPass_ok hlow
  exact ⟨_, rfl, clamp_range hy⟩

/-! ## GET from a get that succeeds (R236) -/

section
variable {c : Config} {s : State} {isr : F32} (hinit : s.initDone = true) (hsr : s.invSr = some isr)
include hinit hsr

theorem getBody_of_tick {ch : Channel} {t : State} {o : F32} (h : tick c isr ch s = .ok (t, o)) :
    getBody c ch s = .ok (putResult o t) :=
  bind_ok.mpr ⟨isr, requireInit_ok.mpr ⟨hinit, hsr⟩, bind_ok.mpr ⟨_, h, rfl⟩⟩

/-! ## MIX from six gets that succeed (R233) -/

/-- The converse of `mixBody_ok`. -/
theorem mixBody_of_gets {p1 p2 : Pulse} {tri : Phasor} {noise : Noise} {smp : Smp} {dsmp : Dsmp} {t : State}
    {o0 o1 o2 o3 o4 o5 m y : F32}
    (h0 : pulseGet c isr s.p1 = .ok (p1, o0)) (h1 : pulseGet c isr s.p2 = .ok (p2, o1))
    (h2 : triGet c isr s.tri = .ok (tri, o2)) (h3 : noiseGet c isr s.noise = .ok (noise, o3))
    (h4 : smpGet c isr s.smp = .ok (smp, o4)) (h5 : dsmpGet c isr s.dsmp = .ok (dsmp, o5))
    (hm : weightedMean c o0 o1 o2 o3 o4 o5 = .ok m)
    (hf : filterChain c { s with p1 := p1, p2 := p2, tri := tri, noise := noise, smp := smp, dsmp := dsmp } m =
      .ok (t, y)) :
    mixBody c s = .ok (putResult (clamp c y) t) :=
  bind_ok.mpr ⟨isr, requireInit_ok.mpr ⟨hinit, hsr⟩,
    bind_ok.mpr ⟨_, bind_ok.mpr ⟨_, h0, rfl⟩, bind_ok.mpr ⟨_, bind_ok.mpr ⟨_, h1, rfl⟩,
    bind_ok.mpr ⟨_, bind_ok.mpr ⟨_, h2, rfl⟩, bind_ok.mpr ⟨_, bind_ok.mpr ⟨_, h3, rfl⟩,
    bind_ok.mpr ⟨_, bind_ok.mpr ⟨_, h4, rfl⟩, bind_ok.mpr ⟨_, bind_ok.mpr ⟨_, h5, rfl⟩,
    bind_ok.mpr ⟨m, hm, bind_ok.mpr ⟨_, hf, rfl⟩⟩⟩⟩⟩⟩⟩⟩⟩

end

/-- The converse of `filterChain_ok`. -/
theorem filterChain_of_applies {c : Config} {s : State} {f0 f1 : HighPass} {f2 : LowPass} {x a b y : F32}
    (h0 : applyHighPass c s.f0 x = .ok (f0, a)) (h1 : applyHighPass c s.f1 a = .ok (f1, b))
    (h2 : applyLowPass c s.f2 b = .ok (f2, y)) :
    filterChain c s x = .ok ({ s with f0 := f0, f1 := f1, f2 := f2 }, y) :=
  bind_ok.mpr ⟨_, h0, bind_ok.mpr ⟨_, h1, bind_ok.mpr ⟨_, h2, rfl⟩⟩⟩

/-- Settles O49: GET stores the generator its tick answers and puts the output on the result port. -/
theorem getRunsOneGenerator : Obligations.GetRunsOneGenerator := by
  intro s isr hs hinit hsr
  have run {ch : Channel} {t : State} {o : F32} (h : tick Config.core isr ch s = .ok (t, o)) :
      exec (.get ch) s = .next (putResult o t) := exec_of_commandBody hs (getBody_of_tick hinit hsr h)
  exact ⟨fun _ _ h => run (ch := .p1) (bind_ok.mpr ⟨_, h, rfl⟩),
    fun _ _ h => run (ch := .p2) (bind_ok.mpr ⟨_, h, rfl⟩),
    fun _ _ h => run (ch := .tri) (bind_ok.mpr ⟨_, h, rfl⟩),
    fun _ _ h => run (ch := .noise) (bind_ok.mpr ⟨_, h, rfl⟩),
    fun _ _ h => run (ch := .smp) (bind_ok.mpr ⟨_, h, rfl⟩),
    fun _ _ h => run (ch := .dsmp) (bind_ok.mpr ⟨_, h, rfl⟩)⟩

/-! ## The weighted sum (R231, R233) -/

/-- What follows a term of the sum adds its checks to those of the product and of the sum. -/
theorem addWeighted_bind {c : Config} {acc w o r : F32} {rs : List F32} {f : F32 → Except Cause F32}
    (h : f (c.num.add acc (c.num.mul w o)) = checked c rs r) :
    (addWeighted c acc w o >>= f) = checked c (c.num.mul w o :: c.num.add acc (c.num.mul w o) :: rs) r := by
  rw [addWeighted, bind_assoc]
  exact numeric_bind (numeric_bind h)

theorem weightedMean_eq_checked (c : Config) (o0 o1 o2 o3 o4 o5 : F32) :
    let x0 := c.num.mul (c.num.lit .weightTone) o0
    let x1 := c.num.mul (c.num.lit .weightTone) o1
    let s1 := c.num.add x0 x1
    let x2 := c.num.mul (c.num.lit .weightTone) o2
    let s2 := c.num.add s1 x2
    let x3 := c.num.mul (c.num.lit .weightNoise) o3
    let s3 := c.num.add s2 x3
    let x4 := c.num.mul (c.num.lit .weightSample) o4
    let s4 := c.num.add s3 x4
    let x5 := c.num.mul (c.num.lit .weightSample) o5
    let s5 := c.num.add s4 x5
    let m := c.num.div s5 (c.num.lit .weightSum)
    weightedMean c o0 o1 o2 o3 o4 o5 = checked c [x0, x1, s1, x2, s2, x3, s3, x4, s4, x5, s5, m] m :=
  numeric_bind (addWeighted_bind (addWeighted_bind (addWeighted_bind (addWeighted_bind (addWeighted_bind
    (numeric_eq_checked _ _))))))

theorem checked_of_forall_isFinite {c : Config} {rs : List F32} (h : ∀ x ∈ rs, c.num.isFinite x = true) (r : F32) :
    checked c rs r = .ok r := if_pos (List.all_eq_true.mpr h)

/-- Settles O48: each term and partial sum is checked in turn, and the filters and the clamp follow. -/
theorem mixIsTheWeightedFilteredSum : Obligations.MixIsTheWeightedFilteredSum := by
  intro s isr o0 o1 o2 o3 o4 o5 y0 y1 y2 p1 p2 tri noise smp dsmp f0 f1 f2 hs hinit hsr h0 h1 h2 h3 h4 h5
    half s1 s2 s3 s4 s5 m hfin hf0 hf1 hf2
  have hm : weightedMean Config.core o0 o1 o2 o3 o4 o5 = .ok m := by
    have hsum := weightedMean_eq_checked Config.core o0 o1 o2 o3 o4 o5
    simp only [core_num, binary32_weightTone, binary32_weightNoise, binary32_weightSample, binary32_weightSum] at hsum
    exact hsum.trans (checked_of_forall_isFinite hfin m)
  exact exec_of_commandBody hs
    (mixBody_of_gets hinit hsr h0 h1 h2 h3 h4 h5 hm (filterChain_of_applies hf0 hf1 hf2))

end Sys2Proof.Machine
end

section
/-! Magnitudes up to a named word: an operation of binary32 stays within a word that its exact result does not exceed
(R12), so its check for NUMERIC passes (R265). -/

namespace Sys2Proof.F32

/-- The magnitude of `x` is at most that of `top`. -/
abbrev Within (top x : F32) : Prop := magBits x ≤ magBits top

section
variable {top ta tb a b x : F32}

theorem within_refl (x : F32) : Within x x := le_rfl

theorem Within.mono (h : Within ta x) (hle : magBits ta ≤ magBits top) : Within top x := h.trans hle

theorem Within.finite (h : Within top x) (htop : isFinite top = true) : isFinite x = true :=
  isFinite_of_magBits_le htop h

theorem Within.magUnits_le (h : Within top x) : magUnits x ≤ magUnits top := magUnits_le_iff.mpr h

theorem Within.neg (h : Within top x) : Within top (neg x) := (magBits_neg x).trans_le h

theorem within_pack_roundMag (htop : isFinite top = true) (neg : Bool) {num den : Nat} (hd : 0 < den)
    (h : num ≤ magUnits top * den) : Within top (pack neg (roundMag num den)) := by
  rw [Within, magBits_pack _ (roundMag_lt _ _)]
  exact roundMag_le_magBits htop hd h

theorem Within.add (ha : Within ta a) (hb : Within tb b)
    (h : isFinite top = true ∧ magUnits ta + magUnits tb ≤ magUnits top) : Within top (add a b) := by
  obtain ⟨htop, h⟩ := h
  have hafin := (ha.mono (magUnits_le_iff.mp (Nat.le_of_add_right_le h))).finite htop
  have hbfin := (hb.mono (magUnits_le_iff.mp (Nat.le_of_add_left_le h))).finite htop
  rw [add_of_isFinite hafin hbfin]
  split
  · rw [Within, magBits_pack _ (by decide)]
    exact Nat.zero_le _
  · refine within_pack_roundMag htop _ Nat.one_pos ?_
    rw [Nat.mul_one]
    refine (Int.natAbs_add_le _ _).trans ?_
    rw [natAbs_units, natAbs_units]
    exact (Nat.add_le_add ha.magUnits_le hb.magUnits_le).trans h

theorem Within.sub (ha : Within ta a) (hb : Within tb b)
    (h : isFinite top = true ∧ magUnits ta + magUnits tb ≤ magUnits top) : Within top (sub a b) := ha.add hb.neg h

theorem Within.mul (ha : Within ta a) (hb : Within tb b) (h : isFinite ta = true ∧ isFinite tb = true ∧
    isFinite top = true ∧ magUnits ta * magUnits tb ≤ magUnits top * 2 ^ 149) : Within top (mul a b) := by
  obtain ⟨hta, htb, htop, h⟩ := h
  rw [mul_of_isFinite (ha.finite hta) (hb.finite htb)]
  exact within_pack_roundMag htop _ (by decide) ((Nat.mul_le_mul ha.magUnits_le hb.magUnits_le).trans h)

theorem within_div (htop : isFinite top = true) (ha : isFinite a = true) (hb : isFinite b = true) (h0 : units b ≠ 0)
    (h : magUnits a * 2 ^ 149 ≤ magUnits top * magUnits b) : Within top (div a b) := by
  rw [div_of_isFinite ha hb h0]
  exact within_pack_roundMag htop _ (magUnits_pos h0) h

theorem add_comm_of_isFinite (ha : isFinite a = true) (hb : isFinite b = true) : add a b = add b a := by
  rw [add_of_isFinite ha hb, add_of_isFinite hb ha, Int.add_comm, Bool.and_comm]

end

end Sys2Proof.F32

namespace Sys2Proof.Machine

open F32 (Within)

/-! ## Computations that raise no fault -/

/-- A sequence whose first part succeeds is the rest of it. -/
theorem bind_of_ok {ε α β : Type} {x : Except ε α} {f : α → Except ε β} {a : α} (h : x = .ok a) :
    (x >>= f) = f a := by
  rw [h]
  rfl

/-- The computation raises no fault, and what it answers satisfies `P`. -/
def Answers {α : Type} (m : Except Cause α) (P : α → Prop) : Prop := ∃ a, m = .ok a ∧ P a

theorem Answers.bind {α β : Type} {m : Except Cause α} {f : α → Except Cause β} {P : α → Prop} {Q : β → Prop}
    (h : Answers m P) (hf : ∀ a, m = .ok a → P a → Answers (f a) Q) : Answers (m >>= f) Q := by
  obtain ⟨a, hm, ha⟩ := h
  obtain ⟨b, hb, hQ⟩ := hf a hm ha
  exact ⟨b, bind_ok.mpr ⟨a, hm, hb⟩, hQ⟩

theorem Answers.imp {α : Type} {m : Except Cause α} {P Q : α → Prop} (h : Answers m P)
    (hPQ : ∀ a, m = .ok a → P a → Q a) : Answers m Q := by
  obtain ⟨a, hm, ha⟩ := h
  exact ⟨a, hm, hPQ a hm ha⟩

theorem answers_ok {α : Type} {a : α} {P : α → Prop} (h : P a) : Answers (.ok a) P := ⟨a, rfl, h⟩

theorem answers_readWritten {v : F32} {r : Reg} (h : r = some v) : Answers (readWritten r) (· = v) :=
  ⟨v, readWritten_ok.mpr h, rfl⟩

/-! ## Checked operations within a word (R265) -/

section
variable {top ta tb a b : F32}

theorem numeric_within (htop : F32.isFinite top = true) (h : Within top a) :
    Answers (numeric Config.core a) (Within top) :=
  ⟨a, numeric_of_isFinite (h.finite htop), h⟩

theorem fadd_within (ha : Within ta a) (hb : Within tb b)
    (h : F32.isFinite top = true ∧ F32.magUnits ta + F32.magUnits tb ≤ F32.magUnits top) :
    Answers (fadd Config.core a b) (Within top) := numeric_within h.1 (ha.add hb h)

theorem fsub_within (ha : Within ta a) (hb : Within tb b)
    (h : F32.isFinite top = true ∧ F32.magUnits ta + F32.magUnits tb ≤ F32.magUnits top) :
    Answers (fsub Config.core a b) (Within top) := numeric_within h.1 (ha.sub hb h)

theorem fmul_within (ha : Within ta a) (hb : Within tb b) (h : F32.isFinite ta = true ∧ F32.isFinite tb = true ∧
    F32.isFinite top = true ∧ F32.magUnits ta * F32.magUnits tb ≤ F32.magUnits top * 2 ^ 149) :
    Answers (fmul Config.core a b) (Within top) := numeric_within h.2.2.1 (ha.mul hb h)

theorem fdiv_within (htop : F32.isFinite top = true) (ha : F32.isFinite a = true) (hb : F32.isFinite b = true)
    (h0 : F32.units b ≠ 0) (h : F32.magUnits a * 2 ^ 149 ≤ F32.magUnits top * F32.magUnits b) :
    Answers (fdiv Config.core a b) (Within top) := numeric_within htop (F32.within_div htop ha hb h0 h)

/-- A quotient of a number by a positive one no smaller does not overflow. -/
theorem fdiv_answers_inUnit (ha : nonnegFinite a = true) (hb : positiveFinite Config.core b = true)
    (hle : F32.units a ≤ F32.units b) : Answers (fdiv Config.core a b) (inUnit Config.core · = true) := by
  obtain ⟨hafin, ha0⟩ := nonnegFinite_iff.mp ha
  obtain ⟨hbfin, hb0⟩ := positiveFinite_iff.mp hb
  have hmag : F32.magUnits a ≤ F32.magUnits b := by
    rw [← F32.natAbs_units, ← F32.natAbs_units]
    omega
  have hone : F32.magUnits fOne = 2 ^ 149 := by decide +kernel
  refine (fdiv_within isFinite_fOne hafin hbfin hb0.ne' ?_).imp fun _ h _ => fdiv_inUnit ha hbfin hle h
  rw [hone, Nat.mul_comm]
  exact Nat.mul_le_mul_left _ hmag

theorem within_fOne_of_inUnit (h : inUnit Config.core a = true) : Within fOne a :=
  magBits_le_of_pendingRange isFinite_fOne (inUnit_eq_pendingRange a ▸ h)

theorem within_of_volumeRange (htop : F32.isFinite top = true) (h : volumeRange top a = true) : Within top a := by
  have hnonneg := nonnegFinite_of_volumeRange htop h
  rw [volumeRange, Bool.or_eq_true, Bool.and_eq_true, decide_eq_true_eq] at h
  obtain rfl | ⟨-, hhi⟩ := h
  · exact Nat.zero_le _
  · exact magBits_le_of_pendingRange htop ((pendingRange_iff htop).mpr ⟨hnonneg, F32.units_le_of_le hhi⟩)

end

/-! ## Counts (R12) -/

/-- 2^31, above every count a tick makes (R115). -/
def countBound : F32 := 0x4F000000#32

theorem ffromNat_answers {k : Nat} (h : k ≤ Config.core.nMax) :
    Answers (ffromNat Config.core k) fun x => x = F32.ofNat k ∧ F32.isFinite x = true := by
  have htop : F32.isFinite countBound = true := by decide
  have hbound : Config.core.nMax * 2 ^ 149 ≤ F32.magUnits countBound * 1 := by decide +kernel
  have hwithin : Within countBound (F32.ofNat k) :=
    F32.within_pack_roundMag htop _ Nat.one_pos ((Nat.mul_le_mul_right _ h).trans hbound)
  exact ⟨_, numeric_of_isFinite (hwithin.finite htop), rfl, hwithin.finite htop⟩

theorem units_ofNat_pos {k : Nat} (h : 0 < k) : 0 < F32.units (F32.ofNat k) :=
  (show 0 < F32.units (F32.ofNat 1) by decide +kernel).trans_le (F32.units_ofNat_le h)

end Sys2Proof.Machine
end

section
/-! INIT (44_mixer.md R235; O45): the filter coefficients are finite for every accepted rate, so an accepted rate always
succeeds. -/

namespace Sys2Proof.Machine

open F32 (Within)

/-! ## Operand (R235) -/

theorem sampleRatePeriod_core (sr : F32) : sampleRatePeriod Config.core sr =
    if F32.gt sr fZero && F32.isFinite sr then
      if F32.isInf (F32.div fOne sr) then .error .badSampleRate else .ok (F32.div fOne sr)
    else .error .badSampleRate := by
  simp only [sampleRatePeriod, positiveFinite_core, core_num, binary32_isInf, binary32_div, binary32_one]

theorem sampleRatePeriod_accepts {sr : F32} (hpos : F32.gt sr fZero = true) (hfin : F32.isFinite sr = true)
    (hinf : F32.isInf (F32.div fOne sr) = false) : sampleRatePeriod Config.core sr = .ok (F32.div fOne sr) := by
  simp [sampleRatePeriod_core, hpos, hfin, hinf]

theorem sampleRatePeriod_refuses {sr : F32}
    (h : F32.gt sr fZero = false ∨ F32.isFinite sr = false ∨ F32.isInf (F32.div fOne sr) = true) :
    sampleRatePeriod Config.core sr = .error .badSampleRate := by
  rw [sampleRatePeriod_core]
  obtain h | h | h := h <;> simp [h]

/-! ## Coefficients (R201, R202) -/

/-- Adding 1 at most to a finite word does not overflow: it is less than half of the last place of the largest. -/
theorem fadd_answers_of_within_fOne {a b : F32} (ha : Within fOne a) (hb : F32.isFinite b = true) :
    Answers (fadd Config.core a b) fun _ => True := by
  have hround := F32.isRounding_add (ha.finite isFinite_fOne) hb
  have hunits : F32.magUnits fOne + 16777215 * 2 ^ 253 < 33554431 * 2 ^ 252 := by decide +kernel
  have hsum : F32.magUnits a + F32.magUnits b < 33554431 * 2 ^ 252 :=
    (Nat.add_le_add ha.magUnits_le (F32.magUnits_le_of_isFinite hb)).trans_lt hunits
  refine ⟨_, numeric_of_isFinite (hround.1 ((abs_add_le _ _).trans_lt ?_)).1, trivial⟩
  rw [F32.abs_units, F32.abs_units, F32.overflow_limit]
  exact_mod_cast hsum

theorem filterRC_cutoff2 : filterRC Config.core cutoff2 = .ok 0x373EBA17#32 := by decide +kernel

/-- RC of each filter is positive and at most 1. -/
theorem filterRC_answers {l : Literal} (hl : l = .cutoff0 ∨ l = .cutoff1 ∨ l = .cutoff2) :
    Answers (filterRC Config.core (Config.core.num.lit l)) fun rc =>
      Within fOne rc ∧ positiveFinite Config.core rc = true := by
  obtain rfl | rfl | rfl := hl
  · rw [core_num, binary32_cutoff0]
    exact ⟨_, filterRC_cutoff0, by decide, by decide +kernel⟩
  · rw [core_num, binary32_cutoff1]
    exact ⟨_, filterRC_cutoff1, by decide, by decide +kernel⟩
  · rw [core_num, binary32_cutoff2]
    exact ⟨_, filterRC_cutoff2, by decide, by decide +kernel⟩

/-- RC and RC + INV_SR are finite, and the dividend is no more than the divisor. -/
theorem highPassAlpha_answers {isr : F32} {l : Literal} (hl : l = .cutoff0 ∨ l = .cutoff1)
    (hisr : nonnegFinite isr = true) :
    Answers (highPassAlpha Config.core isr (Config.core.num.lit l)) fun _ => True := by
  refine (filterRC_answers (hl.imp_right .inl)).bind fun rc _ ⟨hrc1, hrc⟩ => ?_
  obtain ⟨hrcfin, hrc0⟩ := positiveFinite_iff.mp hrc
  refine (fadd_answers_of_within_fOne hrc1 (nonnegFinite_iff.mp hisr).1).bind fun den hden _ => ?_
  have hle := le_fadd (nonnegFinite_of_positiveFinite hrc) hisr hden
  have hdenpos := positiveFinite_iff.mpr ⟨isFinite_of_numeric hden, hrc0.trans_le hle⟩
  exact (fdiv_answers_inUnit (nonnegFinite_of_positiveFinite hrc) hdenpos hle).imp fun _ _ _ => trivial

/-- RC * SR is no more than SR, so 1.0 + RC * SR is finite, and no less than 1.0. -/
theorem lowPassAlpha_answers {sr : F32} (hsr : nonnegFinite sr = true) :
    Answers (lowPassAlpha Config.core sr (Config.core.num.lit .cutoff2)) fun _ => True := by
  have hsrfin := (nonnegFinite_iff.mp hsr).1
  have hone : nonnegFinite fOne = true := by decide +kernel
  refine (filterRC_answers (.inr (.inr rfl))).bind fun rc _ ⟨hrc1, hrc⟩ => ?_
  refine (numeric_within hsrfin (F32.magBits_mul_le (hrc1.finite isFinite_fOne) hsrfin hrc1)).bind fun m hm _ => ?_
  have hm0 := fmul_nonneg (nonnegFinite_of_positiveFinite hrc) hsr hm
  rw [core_num, binary32_one]
  refine (fadd_answers_of_within_fOne (F32.within_refl fOne) (isFinite_of_numeric hm)).bind fun den hden _ => ?_
  have hle := le_fadd hone hm0 hden
  have hone0 : 0 < F32.units fOne := by decide +kernel
  have hdenpos := positiveFinite_iff.mpr ⟨isFinite_of_numeric hden, hone0.trans_le hle⟩
  exact (fdiv_answers_inUnit hone hdenpos hle).imp fun _ _ _ => trivial

section
variable {c : Config}

theorem filterRC_formula {fc rc : F32} (h : filterRC c fc = .ok rc) :
    rc = c.num.div (c.num.lit .one) (c.num.mul (c.num.mul (c.num.lit .two) (c.num.lit .pi)) fc) := by
  obtain ⟨twoPi, h1, h⟩ := bind_ok.mp h
  obtain ⟨w, h2, h⟩ := bind_ok.mp h
  obtain ⟨-, rfl⟩ := fmul_ok.mp h1
  obtain ⟨-, rfl⟩ := fmul_ok.mp h2
  exact (fdiv_ok.mp h).2

theorem highPassAlpha_formula {isr fc alpha : F32} (h : highPassAlpha c isr fc = .ok alpha) :
    let rc := c.num.div (c.num.lit .one) (c.num.mul (c.num.mul (c.num.lit .two) (c.num.lit .pi)) fc)
    alpha = c.num.div rc (c.num.add rc isr) := by
  obtain ⟨rc, h1, h⟩ := bind_ok.mp h
  obtain ⟨den, h2, h⟩ := bind_ok.mp h
  obtain rfl := filterRC_formula h1
  obtain ⟨-, rfl⟩ := fadd_ok.mp h2
  exact (fdiv_ok.mp h).2

theorem lowPassAlpha_formula {sr fc alpha : F32} (h : lowPassAlpha c sr fc = .ok alpha) :
    let rc := c.num.div (c.num.lit .one) (c.num.mul (c.num.mul (c.num.lit .two) (c.num.lit .pi)) fc)
    alpha = c.num.div (c.num.lit .one) (c.num.add (c.num.lit .one) (c.num.mul rc sr)) := by
  obtain ⟨rc, h1, h⟩ := bind_ok.mp h
  obtain ⟨m, h2, h⟩ := bind_ok.mp h
  obtain ⟨den, h3, h⟩ := bind_ok.mp h
  obtain rfl := filterRC_formula h1
  obtain ⟨-, rfl⟩ := fmul_ok.mp h2
  obtain ⟨-, rfl⟩ := fadd_ok.mp h3
  exact (fdiv_ok.mp h).2

end

/-! ## Command (R235) -/

/-- Settles O45: the three coefficients are the finite results of their formulas, and the rest is written as listed. -/
theorem initResetsForSampleRateOrFaults : Obligations.InitResetsForSampleRateOrFaults := by
  refine fun s sr hs => ⟨fun hpos hfin hinf => ?_, fun h => ?_⟩
  · intro isr rc reset high
    have hsr := sampleRatePeriod_accepts hpos hfin hinf
    obtain ⟨hsrpos, hisrpos⟩ := sampleRatePeriod_ok hsr
    obtain ⟨a0, h0, -⟩ := highPassAlpha_answers (.inl rfl) (nonnegFinite_of_positiveFinite hisrpos)
    obtain ⟨a1, h1, -⟩ := highPassAlpha_answers (.inr rfl) (nonnegFinite_of_positiveFinite hisrpos)
    obtain ⟨a2, h2, -⟩ := lowPassAlpha_answers (nonnegFinite_of_positiveFinite hsrpos)
    have hbody : commandBody (.init sr) s = .ok _ := bind_ok.mpr ⟨isr, hsr, bind_ok.mpr ⟨_, bind_ok.mpr ⟨a0, h0, rfl⟩,
      bind_ok.mpr ⟨_, bind_ok.mpr ⟨a1, h1, rfl⟩, bind_ok.mpr ⟨_, bind_ok.mpr ⟨a2, h2, rfl⟩, rfl⟩⟩⟩⟩
    obtain rfl := highPassAlpha_formula h0
    obtain rfl := highPassAlpha_formula h1
    obtain rfl := lowPassAlpha_formula h2
    simp only [core_num, binary32_one, binary32_two, binary32_pi, binary32_cutoff0, binary32_cutoff1,
      binary32_cutoff2] at hbody
    exact exec_of_commandBody hs hbody
  · exact exec_of_commandBody_error (cause := .badSampleRate) hs (bind_error (sampleRatePeriod_refuses h))

end Sys2Proof.Machine
end

section
/-! Updates and gets of P1, P2, TRI and NOISE that raise no fault (41_phase_accumulator.md R110 to R115, R130, R131,
R135). -/

namespace Sys2Proof.F32

/-- A finite word is less than +infinity. -/
theorem lt_of_isInf {x y : F32} (hx : isFinite x = true) (hy : isInf y = true) (hsign : signBit y = false) :
    lt x y = true := by
  have hbits : magBits y = infMag := of_decide_eq_true hy
  have hmag : magUnits x < magUnits y := magUnits_lt_of_magBits_lt ((of_decide_eq_true hx).trans_eq hbits.symm)
  have hnan : isNaN y = false := decide_eq_false (hbits ▸ Nat.lt_irrefl _)
  have hunits : units x < units y := by
    have hx := natAbs_units x
    have hy : units y = magUnits y := by simp [units, hsign]
    omega
  simp [lt, not_isNaN_of_isFinite hx, hnan, hunits]

/-- A rounding of a number that is not negative, and no more than a finite word, is finite. -/
theorem IsRounding.isFinite_of_not_lt {z : ℚ} {r x : F32} (h : IsRounding z r) (hz : 0 ≤ z) (hx : isFinite x = true)
    (hlt : lt x r = false) : isFinite r = true := by
  refine h.isFinite_of_not_isInf (Bool.eq_false_iff.mpr fun hinf => ?_)
  have hlarge : 2 ^ 277 - 2 ^ 252 ≤ |z| := by
    by_contra hsmall
    exact Bool.false_ne_true ((not_isInf_of_isFinite (h.1 (not_le.mp hsmall)).1).symm.trans hinf)
  have hsign : signBit r = false := Bool.eq_false_iff.mpr fun hs => absurd ((h.2 hlarge).2.mp hs) (not_lt.mpr hz)
  exact Bool.false_ne_true (hlt.symm.trans (lt_of_isInf hx hinf hsign))

end Sys2Proof.F32

namespace Sys2Proof.Machine

open F32 (Within)

/-! ## Phase accumulator (R110 to R115) -/

theorem isRounding_advance {phase isr : F32} (hphase : nonnegFinite phase = true)
    (hisr : positiveFinite Config.core isr = true) :
    F32.IsRounding (F32.units phase + F32.units isr) (F32.add phase isr) ∧
      (0 : ℚ) ≤ F32.units phase + F32.units isr := by
  obtain ⟨hphfin, hph0⟩ := nonnegFinite_iff.mp hphase
  obtain ⟨hisrfin, hisr0⟩ := positiveFinite_iff.mp hisr
  exact ⟨F32.isRounding_add hphfin hisrfin, add_nonneg (by exact_mod_cast hph0) (by exact_mod_cast hisr0.le)⟩

/-- At most `limit` whole periods fit into a phase below `limit + 1` of them. -/
theorem floorQuot_within {ph p : F32} {limit : Nat} (hp : 0 < F32.units p) (hph : 0 ≤ F32.units ph)
    (h : F32.units ph < ((limit : Int) + 1) * F32.units p) : ∃ n, n ≤ limit ∧ F32.floorQuot ph p = some n := by
  refine ⟨_, not_lt.mp fun hlt => ?_, floorQuot_eq_some.mpr ⟨hp, hph, rfl⟩⟩
  have hle := (le_quotient_iff hp hph).mp hlt
  push_cast at hle
  omega

section
variable {isr : F32} {limit : Nat} {P : Prop} (hisr : positiveFinite Config.core isr = true)
  (hlimit : limit ≤ Config.core.nMax)
include hisr hlimit

/-- The first half of an update that crosses no period, or of one with at most N_MAX periods. -/
theorem phaseStep_answers {a : Phasor} (ha : a.Kept true) (h : a.crosses isr = false ∨ P ∧ a.CountWithin isr limit) :
    ∃ p crossed, a.period = some p ∧ phaseStep Config.core isr a.phase p = .ok (F32.add a.phase isr, crossed) ∧
      ∀ n, crossed = some n → P ∧ n ≤ limit := by
  obtain ⟨p, hp⟩ := Option.isSome_iff_exists.mp (ha.written rfl)
  obtain ⟨hpfin, hp0⟩ := positiveFinite_iff.mp ((Option.all_eq_true _ _).mp ha.period p hp)
  obtain ⟨hround, hz⟩ := isRounding_advance ha.phase hisr
  have hcrosses : a.crosses isr = F32.le p (F32.add a.phase isr) := by rw [Phasor.crosses, hp]; rfl
  by_cases hge : a.crosses isr = true
  · obtain hstill | ⟨hpending, hfin, hcount⟩ := h
    · exact absurd hge (Bool.eq_false_iff.mp hstill)
    have hph := (nonnegFinite_iff.mp (nonnegFinite_of_isRounding hround hfin hz)).2
    obtain ⟨n, hn, hquot⟩ := floorQuot_within hp0 hph (hcount p hp)
    refine ⟨p, some n, hp, ?_, fun k hk => ⟨hpending, Option.some.inj hk ▸ hn⟩⟩
    exact (phaseStep_crossing rfl hfin (hcrosses.symm.trans hge) hquot).trans
      (if_neg (not_lt.mpr (hn.trans hlimit)))
  · have hle := hcrosses.symm.trans (Bool.eq_false_iff.mpr hge)
    have hfin := hround.isFinite_of_not_lt hz hpfin
      (Bool.eq_false_iff.mpr fun hlt => Bool.false_ne_true (hle.symm.trans (F32.le_of_lt hlt)))
    exact ⟨p, none, hp, phaseStep_below rfl hfin hle, nofun⟩

omit hisr hlimit in
/-- A commit with both pending registers written, and the wrap into the new period. -/
theorem commitPhasor_wrapPhase_answers {a : Phasor} {d : Bool} {ph : F32} (ha : a.Kept d)
    (hpending : a.nextPeriod.isSome = true ∧ a.nextVolume.isSome = true) (hph : F32.isFinite ph = true) :
    Answers (commitPhasor Config.core a) fun b => Answers (wrapPhase Config.core ph b) fun _ => True := by
  obtain ⟨p, hp⟩ := Option.isSome_iff_exists.mp hpending.1
  obtain ⟨v, hv⟩ := Option.isSome_iff_exists.mp hpending.2
  obtain ⟨hpfin, hp0⟩ := positiveFinite_iff.mp ((Option.all_eq_true _ _).mp ha.nextPeriod p hp)
  exact ⟨_, commitPhasor_written hp hv _, _, wrapPhase_written rfl (F32.units_fmod hph hpfin hp0.ne').2, trivial⟩

theorem phasorUpdate_answers {a : Phasor} (ha : a.Kept true)
    (h : a.crosses isr = false ∨ (a.nextPeriod.isSome = true ∧ a.nextVolume.isSome = true) ∧ a.CountWithin isr limit) :
    Answers (phasorUpdate Config.core isr a) fun r => r.2 ≤ limit := by
  obtain ⟨p, crossed, hp, hs, hcross⟩ := phaseStep_answers hisr hlimit ha h
  obtain ⟨-, hfin, -⟩ := phaseStep_ok hs
  cases crossed with
  | none => exact ⟨_, phasorUpdate_below hp hs, Nat.zero_le _⟩
  | some n =>
    obtain ⟨hpending, hn⟩ := hcross n rfl
    rw [phasorUpdate_crossing hp hs]
    exact (commitPhasor_wrapPhase_answers ha hpending hfin).bind fun b _ hb =>
      hb.bind fun _ _ _ => answers_ok hn

omit hlimit in
/-- While DUTY is UNWRITTEN the next update is the first after INIT, which advances +0.0 to INV_SR, the period (R35). -/
theorem duty_isSome_of_not_crosses {g : Pulse} (hg : g.Kept true (some isr)) (hstill : g.acc.crosses isr = false) :
    g.duty.isSome = true := by
  rw [Option.isSome_iff_ne_none]
  intro hduty
  obtain ⟨hphase, hperiod⟩ := hg.fresh rfl hduty
  obtain ⟨hisrfin, -⟩ := positiveFinite_iff.mp hisr
  have hround := F32.isRounding_add isFinite_fZero hisrfin
  rw [units_fZero, Int.cast_zero, zero_add] at hround
  obtain ⟨hsumfin, hsum⟩ := hround.units_eq hisrfin
  rw [Phasor.crosses, hperiod, hphase] at hstill
  exact Bool.false_ne_true (hstill.symm.trans ((F32.le_iff_units hisrfin hsumfin).mpr hsum.ge))

/-- P1 or P2: besides, DUTY is written afterwards, by the commit or before. -/
theorem pulseUpdate_answers {g : Pulse} (hg : g.Kept true (some isr))
    (h : g.acc.crosses isr = false ∨
      (g.acc.nextPeriod.isSome = true ∧ g.acc.nextVolume.isSome = true ∧ g.nextDuty.isSome = true) ∧
        g.acc.CountWithin isr limit) :
    Answers (pulseUpdate Config.core isr g) fun r => r.1.duty.isSome = true := by
  obtain ⟨p, crossed, hp, hs, hcross⟩ := phaseStep_answers hisr hlimit hg.acc h
  obtain ⟨-, hfin, hcases⟩ := phaseStep_ok hs
  cases crossed with
  | none =>
    obtain ⟨hle, -⟩ | ⟨-, n, hn, -⟩ := hcases
    · have hstill : g.acc.crosses isr = false := by rw [Phasor.crosses, hp]; exact hle
      have hduty := duty_isSome_of_not_crosses hisr hg hstill
      exact ⟨_, pulseUpdate_below hp hs, hduty⟩
    · exact nomatch hn
  | some n =>
    obtain ⟨⟨hnp, hnv, hnd⟩, -⟩ := hcross n rfl
    obtain ⟨e, he⟩ := Option.isSome_iff_exists.mp hnd
    obtain ⟨a, ha, b, hb, -⟩ := commitPhasor_wrapPhase_answers hg.acc ⟨hnp, hnv⟩ hfin
    rw [pulseUpdate_crossing hp hs]
    exact ⟨_, bind_ok.mpr ⟨_, commitPulse_written ha he, bind_ok.mpr ⟨b, hb, rfl⟩⟩, rfl⟩

/-! ## Pulse, triangle, noise (R130, R131, R135) -/

omit hisr hlimit in
/-- DUTY * PERIOD is no more than PERIOD. -/
theorem pulseLevel_answers {phase p e volume : F32} (hp : F32.isFinite p = true) (he : Within fOne e)
    (hvol : Within fOne volume) : Answers (pulseLevel Config.core phase p e volume) (Within fOne) := by
  refine (numeric_within hp (F32.magBits_mul_le (he.finite isFinite_fOne) hp he)).bind fun edge _ _ => ?_
  split
  · exact answers_ok hvol
  · exact numeric_within isFinite_fOne hvol.neg

theorem pulseGet_answers {g : Pulse} (hg : g.Kept true (some isr))
    (h : g.acc.crosses isr = false ∨
      (g.acc.nextPeriod.isSome = true ∧ g.acc.nextVolume.isSome = true ∧ g.nextDuty.isSome = true) ∧
        g.acc.CountWithin isr limit) :
    Answers (pulseGet Config.core isr g) fun r => Within fOne r.2 := by
  refine (pulseUpdate_answers hisr hlimit hg h).bind fun ⟨t, n⟩ hu hduty => ?_
  obtain ⟨hacc, -, hdutyEq⟩ := pulseUpdate_phasorUpdate hu
  have hkept := phasorUpdate_kept hg.acc hisr hacc
  obtain ⟨p, hp⟩ := Option.isSome_iff_exists.mp (hkept.written rfl)
  obtain ⟨e, he⟩ := Option.isSome_iff_exists.mp hduty
  have hpfin := (positiveFinite_iff.mp ((Option.all_eq_true _ _).mp hkept.period p hp)).1
  have he1 : inUnit Config.core e = true := by
    obtain hkeep | hcommit := hdutyEq
    · exact (Option.all_eq_true _ _).mp hg.duty e (hkeep.symm.trans he)
    · exact (Option.all_eq_true _ _).mp hg.nextDuty e (hcommit.symm.trans he)
  have hlevel := pulseLevel_answers (phase := t.acc.phase) hpfin (within_fOne_of_inUnit he1)
    (within_of_volumeRange isFinite_fOne hkept.volume)
  refine (answers_readWritten hp).bind fun _ _ hp' => (answers_readWritten he).bind fun _ _ he' => ?_
  subst hp' he'
  exact hlevel.bind fun o _ ho => answers_ok ho

omit hisr hlimit in
/-- 4 t is at most 4, so both branches of the ramp are finite. -/
theorem triangleRamp_answers {t : F32} (ht : inUnit Config.core t = true) :
    Answers (triangleRamp Config.core t) (Within fOne) := by
  refine Answers.imp (P := fun _ => True) ?_ fun y hy _ => triangleRamp_magBits ht hy
  simp only [triangleRamp, core_num, binary32_four, binary32_half, binary32_one, binary32_three]
  refine (fmul_within (top := fFour) (F32.within_refl fFour) (within_fOne_of_inUnit ht) (by decide +kernel)).bind
    fun q _ hq => ?_
  split
  · exact (fsub_within (top := countBound) hq (F32.within_refl fOne) (by decide +kernel)).imp fun _ _ _ => trivial
  · exact (fsub_within (top := countBound) (F32.within_refl fThree) hq (by decide +kernel)).imp fun _ _ _ => trivial

omit hisr hlimit in
/-- The phase is below the period after an update. -/
theorem phaseRatio_answers {a : Phasor} {d : Bool} {p : F32} (ha : a.Kept d) (hp : a.period = some p) :
    Answers (fdiv Config.core a.phase p) (inUnit Config.core · = true) :=
  fdiv_answers_inUnit ha.phase ((Option.all_eq_true _ _).mp ha.period p hp)
    (F32.units_le_of_le (F32.le_of_lt ((Option.all_eq_true _ _).mp ha.wrapped p hp)))

theorem triGet_answers {a : Phasor} (ha : a.Kept true)
    (h : a.crosses isr = false ∨ (a.nextPeriod.isSome = true ∧ a.nextVolume.isSome = true) ∧ a.CountWithin isr limit) :
    Answers (triGet Config.core isr a) fun r => Within fOne r.2 := by
  refine (phasorUpdate_answers hisr hlimit ha h).bind fun ⟨b, n⟩ hu _ => ?_
  have hkept := phasorUpdate_kept ha hisr hu
  have hvol := within_of_volumeRange isFinite_fOne hkept.volume
  obtain ⟨p, hp⟩ := Option.isSome_iff_exists.mp (hkept.written rfl)
  refine (answers_readWritten hp).bind fun _ _ hp' => ?_
  subst hp'
  refine (phaseRatio_answers hkept hp).bind fun t _ ht => (triangleRamp_answers ht).bind fun y _ hy => ?_
  exact (fmul_within hy hvol (by decide +kernel)).bind fun o _ ho => answers_ok ho

/-- The count of set bits is at most the count of advances, which is at most N_MAX and not 0. -/
theorem noiseGet_answers {g : Noise} (hg : g.Kept true)
    (h : g.acc.crosses isr = false ∨
      (g.acc.nextPeriod.isSome = true ∧ g.acc.nextVolume.isSome = true) ∧ g.acc.CountWithin isr limit) :
    Answers (noiseGet Config.core isr g) fun r => Within fOne r.2 := by
  refine Answers.imp (P := fun _ => True) ?_ fun r hr _ => ?_
  · refine (phasorUpdate_answers hisr hlimit hg.acc h).bind fun ⟨a, n⟩ hu hn => ?_
    have hvol := within_of_volumeRange isFinite_fOne (phasorUpdate_kept hg.acc hisr hu).volume
    have hcount := lfsrRun_count_le Config.core g.metallic n g.lfsr 0
    rw [Nat.zero_add] at hcount
    dsimp only
    split
    · exact answers_ok trivial
    · rename_i hn0
      refine (ffromNat_answers (hcount.trans (hn.trans hlimit))).bind fun num hnum ⟨hnumEq, _⟩ => ?_
      refine (ffromNat_answers (hn.trans hlimit)).bind fun den hden ⟨hdenEq, hdenfin⟩ => ?_
      have hpos := hdenEq ▸ units_ofNat_pos (Nat.pos_of_ne_zero hn0)
      have hle : F32.units num ≤ F32.units den := by
        rw [hnumEq, hdenEq]
        exact F32.units_ofNat_le hcount
      refine (fdiv_answers_inUnit (ffromNat_nonneg hnum) (positiveFinite_iff.mpr ⟨hdenfin, hpos⟩) hle).bind
        fun avg _ havg => ?_
      exact (fmul_within (top := fOne) (within_fOne_of_inUnit havg) hvol (by decide +kernel)).bind
        fun _ _ _ => answers_ok trivial
  · have hkept := (noiseGet_kept hg hisr hr).1.acc
    rw [noiseGet_out hr]
    exact (noiseGet_magBits hg hisr hr).trans (within_of_volumeRange isFinite_fOne hkept.volume)

end

end Sys2Proof.Machine
end

section
/-! Gets of SMP and DSMP that raise no fault: samples of magnitude up to 2^100 add up to 2^126 at most, however many
there are (42_resampling.md R152, R161, R170 to R172). -/

namespace Sys2Proof.Machine

open F32 (Within)

/-- 2^100, the magnitude of a moderate word. -/
def moderateBound : F32 := 0x71800000#32
/-- 2^101. -/
def moderateBoundTwice : F32 := 0x72000000#32
/-- 2^125, twice which is `sumBound`. -/
def averageBound : F32 := 0x7E000000#32
/-- 2^126, which adding 2^100 does not exceed: the sum rounds back. -/
def sumBound : F32 := 0x7E800000#32
/-- 2.5 * 2^125, the largest output of DSMP on moderate samples. -/
def directOutputBound : F32 := 0x7EA00000#32

theorem isFinite_sumBound : F32.isFinite sumBound = true := by decide

theorem within_of_moderate {x : F32} (h : moderate x = true) : Within moderateBound x := of_decide_eq_true h

theorem isFinite_of_moderate {x : F32} (h : moderate x = true) : F32.isFinite x = true :=
  (within_of_moderate h).finite (by decide)

theorem fadd_sum_answers {s v : F32} (hs : Within sumBound s) (hv : Within moderateBound v) :
    Answers (fadd Config.core s v) (Within sumBound) :=
  numeric_within isFinite_sumBound (F32.magBits_add_le hs hv)

/-! ## Interpolation and average (R152, R161, R172) -/

/-- The cosine lies in [-1, 1], so `mu2` lies in [-1, 1] whatever its rounding. -/
theorem raisedCosine_answers {t : F32} (ht : Within fOne t) : Answers (raisedCosine Config.core t) (Within fOne) := by
  simp only [raisedCosine, core_num, binary32_pi, binary32_one, binary32_half]
  refine (fmul_within (top := piF32) ht (F32.within_refl piF32) (by decide +kernel)).bind fun angle _ hangle => ?_
  have hcos : Within fOne (cosF32 angle) := by
    obtain ⟨hlo, hhi⟩ := cosF32_bounded (hangle.finite (by decide))
    have hlo := F32.units_le_of_le hlo
    rw [F32.units_neg] at hlo
    exact magBits_le_fOne hlo (F32.units_le_of_le hhi)
  refine (numeric_within isFinite_fOne hcos).bind fun co _ hco => ?_
  refine (fsub_within (top := fTwo) (F32.within_refl fOne) hco (by decide +kernel)).bind fun d _ hd => ?_
  exact fmul_within hd (F32.within_refl fHalf) (by decide +kernel)

theorem interp_answers {hp hc t : F32} (hhp : moderate hp = true) (hhc : moderate hc = true) (ht : Within fOne t) :
    Answers (interp Config.core hp hc t) (Within averageBound) := by
  refine (raisedCosine_answers ht).bind fun mu2 _ hmu => ?_
  rw [core_num, binary32_one]
  refine (fsub_within (top := fTwo) (F32.within_refl fOne) hmu (by decide +kernel)).bind fun rest _ hrest => ?_
  refine (fmul_within (top := moderateBoundTwice) (within_of_moderate hhp) hrest (by decide +kernel)).bind
    fun a _ ha => ?_
  refine (fmul_within (top := moderateBound) (within_of_moderate hhc) hmu (by decide +kernel)).bind fun b _ hb => ?_
  exact fadd_within ha hb (by decide +kernel)

/-- A sum divided by at least 2. -/
theorem fdiv_count_answers {s : F32} {n : Nat} (hs : Within sumBound s) (hn : 1 < n)
    (hfin : F32.isFinite (F32.ofNat n) = true) :
    Answers (fdiv Config.core s (F32.ofNat n)) (Within averageBound) := by
  have hpos := units_ofNat_pos (Nat.zero_lt_of_lt hn)
  have htwo : F32.magUnits (F32.ofNat 2) ≤ F32.magUnits (F32.ofNat n) := by
    have hle := F32.units_ofNat_le hn
    rwa [← F32.magUnits_eq_units hpos.le, ← F32.magUnits_eq_units (units_ofNat_pos Nat.two_pos).le,
      Int.ofNat_le] at hle
  refine fdiv_within (by decide) (hs.finite isFinite_sumBound) hfin hpos.ne' ?_
  calc F32.magUnits s * 2 ^ 149 ≤ F32.magUnits sumBound * 2 ^ 149 := Nat.mul_le_mul_right _ hs.magUnits_le
    _ = F32.magUnits averageBound * F32.magUnits (F32.ofNat 2) := by decide +kernel
    _ ≤ F32.magUnits averageBound * F32.magUnits (F32.ofNat n) := Nat.mul_le_mul_left _ htwo

/-! ## SMP (R161) -/

theorem moderate_dequeue {q : List F32} (hq : q.all moderate = true) :
    moderate ((dequeue q).1.getD fZero) = true ∧ (dequeue q).2.all moderate = true := by
  cases q with
  | nil => exact ⟨by decide, rfl⟩
  | cons x q => exact Bool.and_eq_true _ _ ▸ hq

theorem sumSamples_answers (n : Nat) {s : F32} {q : List F32} (hs : Within sumBound s) (hq : q.all moderate = true) :
    Answers (sumSamples Config.core n s q) fun r => Within sumBound r.1 := by
  induction n generalizing s q with
  | zero => exact answers_ok hs
  | succ n ih =>
    obtain ⟨hx, hq⟩ := moderate_dequeue hq
    exact (fadd_sum_answers hs (within_of_moderate hx)).bind fun s' _ hs' => ih hs' hq

section
variable {g : Smp}

theorem smpAverage_answers {n : Nat} (hvol : Within fOne g.acc.volume) (hq : g.queue.all moderate = true) (hn : 1 < n)
    (hmax : n ≤ Config.core.nMax) : Answers (smpAverage Config.core n g) fun r => Within averageBound r.2 := by
  refine (sumSamples_answers n (Nat.zero_le _) hq).bind fun ⟨s, q⟩ _ hs => ?_
  refine (ffromNat_answers hmax).bind fun k _ ⟨hk, hfin⟩ => ?_
  subst hk
  refine (fdiv_count_answers hs hn hfin).bind fun avg _ havg => ?_
  exact (fmul_within (top := averageBound) havg hvol (by decide +kernel)).bind fun o _ ho => answers_ok ho

theorem smpInterpolate_answers {d : Bool} (hg : g.Kept d) (hperiod : g.acc.period.isSome = true)
    (hhist : moderate g.hPrev = true ∧ moderate g.hCur = true) :
    Answers (smpInterpolate Config.core g) fun r => Within averageBound r.2 := by
  obtain ⟨p, hp⟩ := Option.isSome_iff_exists.mp hperiod
  refine (answers_readWritten hp).bind fun _ _ hp' => ?_
  subst hp'
  refine (phaseRatio_answers hg.acc hp).bind fun t _ ht => ?_
  refine (interp_answers hhist.1 hhist.2 (within_fOne_of_inUnit ht)).bind fun y _ hy => ?_
  have hvol := within_of_volumeRange isFinite_fOne hg.acc.volume
  exact (fmul_within (top := averageBound) hy hvol (by decide +kernel)).bind fun o _ ho => answers_ok ho

theorem smpGet_answers {isr : F32} (hg : g.Kept true) (hisr : positiveFinite Config.core isr = true)
    (hhist : moderate g.hPrev = true ∧ moderate g.hCur = true)
    (h : g.acc.crosses isr = false ∨ (g.acc.nextPeriod.isSome = true ∧ g.acc.nextVolume.isSome = true) ∧
      g.acc.CountWithin isr tickLimit ∧ g.queue.all moderate = true) :
    Answers (smpGet Config.core isr g) fun r => Within averageBound r.2 := by
  have hlimit : tickLimit ≤ Config.core.nMax := by decide
  refine (phasorUpdate_answers hisr hlimit hg.acc (h.imp_right fun ⟨hp, hc, _⟩ => ⟨hp, hc⟩)).bind fun ⟨a, n⟩ hu hn => ?_
  have hkept := phasorUpdate_kept hg.acc hisr hu
  have hg' : ({ g with acc := a } : Smp).Kept true := { hg with acc := hkept }
  have hqueue : n ≠ 0 → g.queue.all moderate = true := fun hn0 => by
    obtain hstill | ⟨-, -, hq⟩ := h
    · exact absurd (phasorUpdate_uncrossed hstill hu).1 hn0
    · exact hq
  dsimp only
  split
  · rename_i h1
    exact smpAverage_answers (within_of_volumeRange isFinite_fOne hkept.volume) (hqueue (Nat.ne_zero_of_lt h1)) h1
      (hn.trans hlimit)
  · split
    · rename_i h1
      have hx := (moderate_dequeue (hqueue (h1 ▸ Nat.one_ne_zero))).1
      exact smpInterpolate_answers (smpTake_kept hg') (hkept.written rfl) ⟨hhist.2, hx⟩
    · exact smpInterpolate_answers hg' (hkept.written rfl) hhist

end

/-! ## DSMP (R170 to R172) -/

/-- What keeps the loop of DSMP_UPDATE from overflowing: moderate samples, and a sum of such. -/
structure DirectLoop.Moderate (l : DirectLoop) : Prop where
  sum : Within sumBound l.sum
  cur : moderate l.cur.value = true
  queue : l.queue.all (fun e => moderate e.value) = true

theorem moderate_nextCurrent {cur : Current} {q : List Entry} (hcur : moderate cur.value = true)
    (hq : q.all (fun e => moderate e.value) = true) :
    moderate (nextCurrent cur q).value = true ∧ (dequeue q).2.all (fun e => moderate e.value) = true := by
  cases q with
  | nil => exact ⟨hcur, rfl⟩
  | cons e q => exact Bool.and_eq_true _ _ ▸ hq

section
variable {isr : F32} (hisr : positiveFinite Config.core isr = true)
include hisr

/-- Subtracting the current period from a larger phase does not overflow, and neither does the sum. -/
theorem directLoop_iterates {l : DirectLoop} (hl : l.Kept) (hm : l.Moderate)
    (hlt : F32.lt (l.cur.period isr) l.ph = true) (room : Nat) :
    let next : DirectLoop :=
      { ph := F32.sub l.ph (l.cur.period isr), n := l.n + 1, sum := F32.add l.sum (nextCurrent l.cur l.queue).value
        cur := nextCurrent l.cur l.queue, queue := (dequeue l.queue).2 }
    directLoop Config.core isr (room + 1) l = directLoop Config.core isr room next ∧ next.Kept ∧ next.Moderate := by
  intro next
  obtain ⟨hph, hcur, hqueue⟩ := hl
  obtain ⟨hphfin, -⟩ := nonnegFinite_iff.mp hph
  obtain ⟨hpfin, hp0⟩ := positiveFinite_iff.mp (positiveFinite_currentPeriod hcur hisr)
  have hle := F32.units_le_of_le (F32.le_of_lt hlt)
  have hdiff : F32.isFinite (F32.sub l.ph (l.cur.period isr)) = true := by
    refine (F32.isRounding_sub hphfin hpfin).isFinite_of_abs_le hphfin (abs_le_abs_of_nonneg ?_ ?_)
    · exact sub_nonneg.mpr (by exact_mod_cast hle)
    · exact sub_le_self _ (by exact_mod_cast hp0.le)
  have hsub : fsub Config.core l.ph (l.cur.period isr) = .ok next.ph := numeric_of_isFinite hdiff
  obtain ⟨hcurm, hqueuem⟩ := moderate_nextCurrent hm.cur hm.queue
  obtain ⟨sum, hadd, hsum⟩ := fadd_sum_answers hm.sum (within_of_moderate hcurm)
  obtain ⟨-, rfl⟩ := fadd_ok.mp hadd
  exact ⟨(directLoop_succ_of_lt hlt room).trans ((bind_of_ok hsub).trans (bind_of_ok hadd)),
    ⟨fsub_nonneg hphfin hpfin hle hsub, dequeue_entries_ok hcur hqueue⟩, ⟨hsum, hcurm, hqueuem⟩⟩

/-- The loop ends without a fault if its phase stops exceeding the period within the iterations it is allowed. -/
theorem directLoop_answers {g : Dsmp} {room j k : Nat} (hkept : (g.loopAfter isr j).Kept)
    (hm : (g.loopAfter isr j).Moderate) (hjk : j ≤ k) (hk : k ≤ j + room) (hend : g.exceeds isr k = false) :
    Answers (directLoop Config.core isr room (g.loopAfter isr j)) DirectLoop.Moderate := by
  induction room generalizing j with
  | zero =>
    obtain rfl : j = k := le_antisymm hjk hk
    exact ⟨_, directLoop_of_not_lt hend _, hm⟩
  | succ room ih =>
    by_cases hlt : g.exceeds isr j = true
    · obtain ⟨hnext, hkept', hm'⟩ := directLoop_iterates hisr hkept hm hlt room
      have hne : j ≠ k := fun hjk => Bool.false_ne_true (hend.symm.trans (hjk ▸ hlt))
      have hsucc := Dsmp.loopAfter_succ isr g j
      rw [hnext]
      exact hsucc ▸ ih (hsucc ▸ hkept') (hsucc ▸ hm') (by omega) (by omega)
    · exact ⟨_, directLoop_of_not_lt (Bool.eq_false_iff.mpr hlt) _, hm⟩

/-- An update that runs no iteration, or one that ends soon with the pending volume written. -/
theorem dsmpUpdate_answers {g : Dsmp} (hg : g.Kept (some isr))
    (h : g.crosses isr = false ∨ g.nextVolume.isSome = true ∧ g.EndsSoon isr) :
    Answers (dsmpUpdate Config.core isr g) fun r => (r.1.hPrev = g.hPrev ∧ r.1.hCur = g.hCur) ∧
      r.2.1 ≤ Config.core.nMax ∧ (r.2.1 ≠ 0 → Within sumBound r.2.2 ∧ moderate r.1.cur.value = true) := by
  have hperiod := positiveFinite_currentPeriod hg.cur hisr
  obtain ⟨hround, hz⟩ := isRounding_advance hg.phase hisr
  obtain hstill | ⟨hpending, hfin, ⟨k, hk, hend⟩, hcur, hqueue⟩ := h
  · have hfin := hround.isFinite_of_not_lt hz (positiveFinite_iff.mp hperiod).1 hstill
    refine ⟨({ g with phase := F32.add g.phase isr }, 0, fZero), ?_, ⟨rfl, rfl⟩, Nat.zero_le _, fun h0 => absurd rfl h0⟩
    exact bind_ok.mpr ⟨_, numeric_of_isFinite hfin, bind_ok.mpr ⟨_, directLoop_of_not_lt hstill _, rfl⟩⟩
  · obtain ⟨v, hv⟩ := Option.isSome_iff_exists.mp hpending
    have hkept : (g.loopAfter isr 0).Kept := ⟨nonnegFinite_of_isRounding hround hfin hz, hg.cur, hg.queue⟩
    have hm : (g.loopAfter isr 0).Moderate := ⟨Nat.zero_le _, hcur, hqueue⟩
    have hk : k ≤ 0 + Config.core.nMax := hk.trans (by decide)
    refine Answers.bind ⟨_, numeric_of_isFinite hfin, rfl⟩ fun ph _ hph => ?_
    subst hph
    refine (directLoop_answers hisr hkept hm (Nat.zero_le k) hk hend).bind fun l hl hlm => ?_
    have hn : l.n ≤ Config.core.nMax := (directLoop_n_le hl).trans_eq (Nat.zero_add _)
    dsimp only
    split
    · exact answers_ok ⟨⟨rfl, rfl⟩, hn, fun _ => ⟨hlm.sum, hlm.cur⟩⟩
    · exact ⟨_, bind_ok.mpr ⟨_, bind_ok.mpr ⟨v, readWritten_ok.mpr hv, rfl⟩, rfl⟩, ⟨rfl, rfl⟩, hn,
        fun _ => ⟨hlm.sum, hlm.cur⟩⟩

theorem dsmpInterpolate_answers {g : Dsmp} (hg : g.Kept (some isr))
    (hhist : moderate g.hPrev = true ∧ moderate g.hCur = true) :
    Answers (dsmpInterpolate Config.core isr g) fun r => Within directOutputBound r.2 := by
  have hperiod := positiveFinite_currentPeriod hg.cur hisr
  refine (fdiv_answers_inUnit hg.phase hperiod (F32.units_le_of_le hg.wrapped)).bind fun t _ ht => ?_
  refine (interp_answers hhist.1 hhist.2 (within_fOne_of_inUnit ht)).bind fun y _ hy => ?_
  have hvol := within_of_volumeRange isFinite_directGain hg.volume
  exact (fmul_within (top := directOutputBound) hy hvol (by decide +kernel)).bind fun o _ ho => answers_ok ho

omit hisr in
theorem dsmpAverage_answers {g : Dsmp} {n : Nat} {s : F32} (hg : g.Kept (some isr)) (hs : Within sumBound s)
    (hn : 1 < n) (hmax : n ≤ Config.core.nMax) :
    Answers (dsmpAverage Config.core n s g) fun r => Within directOutputBound r.2 := by
  refine (ffromNat_answers hmax).bind fun k _ ⟨hk, hfin⟩ => ?_
  subst hk
  refine (fdiv_count_answers hs hn hfin).bind fun avg _ havg => ?_
  have hvol := within_of_volumeRange isFinite_directGain hg.volume
  exact (fmul_within (top := directOutputBound) havg hvol (by decide +kernel)).bind fun o _ ho => answers_ok ho

theorem dsmpGet_answers {g : Dsmp} (hg : g.Kept (some isr))
    (hhist : moderate g.hPrev = true ∧ moderate g.hCur = true)
    (h : g.crosses isr = false ∨ g.nextVolume.isSome = true ∧ g.EndsSoon isr) :
    Answers (dsmpGet Config.core isr g) fun r => Within directOutputBound r.2 := by
  refine (dsmpUpdate_answers hisr hg h).bind fun ⟨t, n, s⟩ hu ⟨⟨hprev, hcur⟩, hmax, hmod⟩ => ?_
  have ht := dsmpUpdate_kept hg hisr hu
  dsimp only at hprev hcur hmax hmod ⊢
  rw [← hprev, ← hcur] at hhist
  split
  · rename_i h1
    exact dsmpAverage_answers ht (hmod (Nat.ne_zero_of_lt h1)).1 h1 hmax
  · split
    · rename_i h1
      have hval := (hmod (h1 ▸ Nat.one_ne_zero)).2
      exact dsmpInterpolate_answers hisr (pushDsmp_kept ht (isFinite_of_moderate hval)) ⟨hhist.2, hval⟩
    · exact dsmpInterpolate_answers hisr ht hhist

end

end Sys2Proof.Machine
end

section
/-! GET and MIX complete (44_mixer.md R233, R236; O54): the outputs of the six gets, their weighted sum and the filters'
memories stay below overflow. -/

namespace Sys2Proof.Machine

open F32 (Within)

/-! ## Sum and filters (R203, R204, R231) -/

theorem addWeighted_answers {acc w o ta tx tout top : F32} (hacc : Within ta acc) (ho : Within tout o)
    (hx : F32.isFinite w = true ∧ F32.isFinite tout = true ∧ F32.isFinite tx = true ∧
      F32.magUnits w * F32.magUnits tout ≤ F32.magUnits tx * 2 ^ 149)
    (hsum : F32.isFinite top = true ∧ F32.magUnits ta + F32.magUnits tx ≤ F32.magUnits top) :
    Answers (addWeighted Config.core acc w o) (Within top) :=
  (fmul_within (F32.within_refl w) ho hx).bind fun _ _ hx => fadd_within hacc hx hsum

/-- 1.5 * 2^125, the term of SMP at its largest. -/
def smpTermBound : F32 := 0x7E400000#32
/-- 3.75 * 2^125, the term of DSMP at its largest. -/
def dsmpTermBound : F32 := 0x7EF00000#32
/-- The largest finite word. -/
def maxFinite : F32 := 0x7F7FFFFF#32

/-- The terms of P1, P2, TRI and NOISE add up to 4 at most, so the two sample terms decide. -/
theorem weightedMean_answers {o0 o1 o2 o3 o4 o5 : F32} (h0 : Within fOne o0) (h1 : Within fOne o1)
    (h2 : Within fOne o2) (h3 : Within fOne o3) (h4 : Within averageBound o4) (h5 : Within directOutputBound o5) :
    Answers (weightedMean Config.core o0 o1 o2 o3 o4 o5) (Within sumBound) := by
  simp only [weightedMean, core_num, binary32_weightTone, binary32_weightNoise, binary32_weightSample,
    binary32_weightSum]
  refine (fmul_within (top := fOne) (F32.within_refl weightTone) h0 (by decide +kernel)).bind fun acc _ hacc => ?_
  refine (addWeighted_answers (tx := fOne) (top := fTwo) hacc h1 (by decide +kernel) (by decide +kernel)).bind
    fun acc _ hacc => ?_
  refine (addWeighted_answers (tx := fOne) (top := fThree) hacc h2 (by decide +kernel) (by decide +kernel)).bind
    fun acc _ hacc => ?_
  refine (addWeighted_answers (tx := fOne) (top := fFour) hacc h3 (by decide +kernel) (by decide +kernel)).bind
    fun acc _ hacc => ?_
  refine (addWeighted_answers (tx := smpTermBound) (top := sumBound) hacc h4 (by decide +kernel)
    (by decide +kernel)).bind fun acc _ hacc => ?_
  refine (addWeighted_answers (tx := dsmpTermBound) (top := maxFinite) hacc h5 (by decide +kernel)
    (by decide +kernel)).bind fun acc _ hacc => ?_
  refine fdiv_within isFinite_sumBound (hacc.finite (by decide)) (by decide) (by decide +kernel) ?_
  exact (Nat.mul_le_mul_right _ hacc.magUnits_le).trans (by decide +kernel)

theorem alpha_within {r : Reg} (hall : r.all (inUnit Config.core) = true) (hsome : r.isSome = true) :
    ∃ alpha, r = some alpha ∧ Within fOne alpha := by
  obtain ⟨alpha, h⟩ := Option.isSome_iff_exists.mp hsome
  exact ⟨alpha, h, within_fOne_of_inUnit ((Option.all_eq_true _ _).mp hall alpha h)⟩

/-- ALPHA * Y_PREV and X_PREV are up to 2^100, so they do not lift the input above 2^126. -/
theorem applyHighPass_answers {f : HighPass} {x : F32} (hf : f.Kept true)
    (hm : moderate f.xPrev = true ∧ moderate f.yPrev = true) (hx : Within sumBound x) :
    Answers (applyHighPass Config.core f x) fun r => Within sumBound r.2 := by
  obtain ⟨alpha, halpha, h1⟩ := alpha_within hf.alpha (hf.written rfl)
  refine (answers_readWritten halpha).bind fun _ _ h => ?_
  subst h
  refine (fmul_within (top := moderateBound) h1 (within_of_moderate hm.2) (by decide +kernel)).bind fun a _ ha => ?_
  refine (fadd_sum_answers hx (within_of_moderate hm.1).neg).bind fun d _ hd => ?_
  refine (fmul_within (top := sumBound) h1 hd (by decide +kernel)).bind fun b _ hb => ?_
  have hsum : Within sumBound (F32.add a b) := by
    rw [F32.add_comm_of_isFinite (ha.finite (by decide)) (hb.finite isFinite_sumBound)]
    exact F32.magBits_add_le hb ha
  exact (numeric_within isFinite_sumBound hsum).bind fun y _ hy => answers_ok hy

theorem applyLowPass_answers {f : LowPass} {x : F32} (hf : f.Kept true) (hm : moderate f.yPrev = true)
    (hx : Within sumBound x) : Answers (applyLowPass Config.core f x) fun _ => True := by
  obtain ⟨alpha, halpha, h1⟩ := alpha_within hf.alpha (hf.written rfl)
  refine (answers_readWritten halpha).bind fun _ _ h => ?_
  subst h
  refine (fadd_sum_answers hx (within_of_moderate hm).neg).bind fun d _ hd => ?_
  refine (fmul_within (top := sumBound) h1 hd (by decide +kernel)).bind fun b _ hb => ?_
  exact (fadd_within (top := maxFinite) (within_of_moderate hm) hb (by decide +kernel)).bind fun _ _ _ =>
    answers_ok trivial

/-! ## The six gets (R233, R236) -/

/-- The get of a channel raises no fault, and its output is bounded. -/
def State.GetAnswers (isr : F32) (s : State) : Channel → Prop
  | .p1 => Answers (pulseGet Config.core isr s.p1) fun r => Within fOne r.2
  | .p2 => Answers (pulseGet Config.core isr s.p2) fun r => Within fOne r.2
  | .tri => Answers (triGet Config.core isr s.tri) fun r => Within fOne r.2
  | .noise => Answers (noiseGet Config.core isr s.noise) fun r => Within fOne r.2
  | .smp => Answers (smpGet Config.core isr s.smp) fun r => Within averageBound r.2
  | .dsmp => Answers (dsmpGet Config.core isr s.dsmp) fun r => Within directOutputBound r.2

section
variable {s : State} {isr : F32} (hs : s.Inv) (hm : s.Moderate) (hinit : s.initDone = true) (hsr : s.invSr = some isr)
include hs hm hinit hsr

theorem getAnswers_of_tickable {ch : Channel} (h : s.Tickable isr ch) : s.GetAnswers isr ch := by
  have hisr := (Option.all_eq_true _ _).mp hs.invSr isr hsr
  cases ch with
  | p1 => exact pulseGet_answers hisr le_rfl (hsr ▸ hinit ▸ hs.p1) h
  | p2 => exact pulseGet_answers hisr le_rfl (hsr ▸ hinit ▸ hs.p2) h
  | tri => exact triGet_answers hisr le_rfl (hinit ▸ hs.tri) h
  | noise => exact noiseGet_answers hisr le_rfl (hinit ▸ hs.noise) h
  | smp => exact smpGet_answers (hinit ▸ hs.smp) hisr hm.smp h
  | dsmp => exact dsmpGet_answers hisr (hsr ▸ hs.dsmp) hm.dsmp h

omit hs hm in
theorem getBody_answers {ch : Channel} (h : s.GetAnswers isr ch) : ∃ t, getBody Config.core ch s = .ok t := by
  cases ch <;>
  · obtain ⟨⟨g, o⟩, hget, -⟩ := h
    exact ⟨_, getBody_of_tick hinit hsr (bind_ok.mpr ⟨_, hget, rfl⟩)⟩

theorem mixBody_answers (h : ∀ ch, s.GetAnswers isr ch) : ∃ t, mixBody Config.core s = .ok t := by
  obtain ⟨⟨p1, o0⟩, h0, b0⟩ := h .p1
  obtain ⟨⟨p2, o1⟩, h1, b1⟩ := h .p2
  obtain ⟨⟨tri, o2⟩, h2, b2⟩ := h .tri
  obtain ⟨⟨noise, o3⟩, h3, b3⟩ := h .noise
  obtain ⟨⟨smp, o4⟩, h4, b4⟩ := h .smp
  obtain ⟨⟨dsmp, o5⟩, h5, b5⟩ := h .dsmp
  obtain ⟨m, hmean, bm⟩ := weightedMean_answers b0 b1 b2 b3 b4 b5
  obtain ⟨⟨f0, y0⟩, hf0, by0⟩ := applyHighPass_answers (hinit ▸ hs.f0) hm.f0 bm
  obtain ⟨⟨f1, y1⟩, hf1, by1⟩ := applyHighPass_answers (hinit ▸ hs.f1) hm.f1 by0
  obtain ⟨⟨f2, y2⟩, hf2, -⟩ := applyLowPass_answers (hinit ▸ hs.f2) hm.f2 by1
  exact ⟨_, mixBody_of_gets hinit hsr h0 h1 h2 h3 h4 h5 hmean (filterChain_of_applies hf0 hf1 hf2)⟩

end

/-! ## Commands -/

/-- Settles O54: each get that is tickable raises no fault, and the sum and the filters of a MIX raise none on outputs
of that size. -/
theorem ticksComplete : Obligations.TicksComplete := by
  intro s isr hs hm hserve hinit hsr
  have faultValid_eq {t : State} (h : t.status = s.status) : t.faultValid = false := by
    obtain ⟨⟨-, hfault, -⟩, -⟩ := status_eq_iff.mp h
    exact hfault.trans hserve
  refine ⟨fun ch h => ?_, fun h => ?_⟩
  · obtain ⟨t, ht⟩ := getBody_answers hinit hsr (getAnswers_of_tickable hs hm hinit hsr h)
    obtain ⟨hstatus, -, -, ⟨r, hr⟩, -⟩ := getBody_frame ht
    exact ⟨t, r, exec_of_commandBody hserve ht, faultValid_eq hstatus, hr⟩
  · obtain ⟨t, ht⟩ := mixBody_answers hs hm hinit hsr fun ch => getAnswers_of_tickable hs hm hinit hsr (h ch)
    obtain ⟨hstatus, -, ⟨r, hr⟩, -⟩ := mixBody_frame ht
    exact ⟨t, r, exec_of_commandBody hserve ht, faultValid_eq hstatus, hr⟩

end Sys2Proof.Machine
end

section
/-! Fault entry (60_exceptions.md R262, R264, R267): a faulted core absorbs commands (O9), a fault writes the fault
registers alone (O10), and MIX and GET before INIT fault (O11). -/

namespace Sys2Proof.Machine

/-! ## A faulted core (R267) -/

theorem exec_of_faulted {s : State} (hs : s.faultValid = true) (i : Instr) : exec i s = .next s :=
  (exec_eq_perform i s).trans (perform_faulted hs)

theorem step_of_decode_illegal {s : State} {h : Word} {why : Illegal} {rest : List Word}
    (hd : decode s.port = .error (.illegal h why rest)) : step s = performIllegal h { s with port := rest } := by
  simp [step, stepBy, fetch, hd]

/-- Settles O9: whatever the step performs, it performs it on a faulted state. -/
theorem faultedCoreAbsorbsCommands : Obligations.FaultedCoreAbsorbsCommands :=
  ⟨fun i _ hs => exec_of_faulted hs i,
    fun s i rest hs hd => (step_of_decode hd).trans (exec_of_faulted (s := { s with port := rest }) hs i),
    fun s _ _ rest hs hd => (step_of_decode_illegal hd).trans (perform_faulted (s := { s with port := rest }) hs)⟩

/-! ## Fault entry (R264) -/

/-- Settles O10: no effect sets FAULT_VALID, so a command that ends with it set took a fault. -/
theorem faultEntryIsPrecise : Obligations.FaultEntryIsPrecise := by
  intro i s t hs h ht
  obtain ⟨hfaulted, -⟩ | ⟨-, hbody⟩ | ⟨-, cause, -, htake⟩ := exec_cases h
  · exact nomatch hs.symm.trans hfaulted
  · exact nomatch (hs.symm.trans (commandBody_faultValid hbody).symm).trans ht
  · exact ⟨hs, ht, cause, htake⟩

/-! ## Before INIT (R262) -/

theorem requireInit_before_init {s : State} (h : s.initDone = false) : requireInit s = .error .notInitialised := by
  simp [requireInit, h]

/-- Settles O11: MIX and GET read INIT_DONE before any generator. -/
theorem ticksBeforeInitFault : Obligations.TicksBeforeInitFault := by
  intro s hs hinit
  have hrequire := requireInit_before_init hinit
  exact ⟨exec_of_commandBody_error (i := .mix) hs (bind_error hrequire),
    fun ch => exec_of_commandBody_error (i := .get ch) hs (bind_error hrequire)⟩

end Sys2Proof.Machine
end

section
/-! The faults of an update (41_phase_accumulator.md R110 to R115, 42_resampling.md R170, R171) on registers that keep the
invariants. -/

namespace Sys2Proof.Machine

theorem numeric_of_not_isFinite {c : Config} {r : F32} (h : c.num.isFinite r = false) :
    numeric c r = .error .numeric := by
  simp [numeric, h]

/-! ## P1, P2, TRI, NOISE and SMP (R110 to R115) -/

/-- An update of these registers fails with NUMERIC where the advanced phase overflows, with COUNT_OVERFLOW above N_MAX
periods, and with UNWRITTEN_PARAM at a crossing unless all that is `pending` has been written. -/
structure Phasor.Faults (isr : F32) (a : Phasor) (pending : Prop) (fails : Cause → Prop) : Prop where
  numeric : F32.isFinite (F32.add a.phase isr) = false → fails .numeric
  countOverflow : ∀ p, a.period = some p → F32.isFinite (F32.add a.phase isr) = true →
    ((Config.core.nMax : Int) + 1) * F32.units p ≤ F32.units (F32.add a.phase isr) → fails .countOverflow
  unwrittenParam : a.crosses isr = true → a.CountWithin isr Config.core.nMax → ¬ pending → fails .unwrittenParam

section
variable {isr : F32} {a : Phasor} {pending : Prop} {fails : Cause → Prop}

/-- A count above N_MAX is a crossing, and faults before the commit (R115, R266). -/
theorem phaseStep_countOverflow {phase p : F32} (hp : positiveFinite Config.core p = true)
    (hfin : F32.isFinite (F32.add phase isr) = true)
    (hcount : ((Config.core.nMax : Int) + 1) * F32.units p ≤ F32.units (F32.add phase isr)) :
    phaseStep Config.core isr phase p = .error .countOverflow := by
  obtain ⟨hpfin, hp0⟩ := positiveFinite_iff.mp hp
  have hle : F32.units p ≤ F32.units (F32.add phase isr) := le_trans (le_mul_of_one_le_left hp0.le (by omega)) hcount
  have hph0 := hp0.le.trans hle
  refine (phaseStep_crossing rfl hfin ((F32.le_iff_units hpfin hfin).mpr hle)
    (floorQuot_eq_some.mpr ⟨hp0, hph0, rfl⟩)).trans (if_pos ?_)
  exact (le_quotient_iff (n := Config.core.nMax + 1) hp0 hph0).mpr (by exact_mod_cast hcount)

/-- The faults of an update are those of its first half, and of its commit at a crossing. -/
theorem Phasor.faults_of_phaseStep (hisr : positiveFinite Config.core isr = true) (ha : a.Kept true)
    (hstep : ∀ p cause, a.period = some p → phaseStep Config.core isr a.phase p = .error cause → fails cause)
    (hcommit : ∀ p ph n, a.period = some p → phaseStep Config.core isr a.phase p = .ok (ph, some n) → ¬ pending →
      fails .unwrittenParam) : a.Faults isr pending fails where
  numeric hfin := by
    obtain ⟨p, hp⟩ := Option.isSome_iff_exists.mp (ha.written rfl)
    exact hstep p _ hp (bind_error (numeric_of_not_isFinite hfin))
  countOverflow p hp hfin hcount :=
    hstep p _ hp (phaseStep_countOverflow ((Option.all_eq_true _ _).mp ha.period p hp) hfin hcount)
  unwrittenParam hcross hcount hpending := by
    obtain ⟨p, crossed, hp, hs, -⟩ := phaseStep_answers hisr le_rfl ha (.inr ⟨trivial, hcount⟩)
    obtain ⟨-, -, ⟨hle, -⟩ | ⟨-, n, rfl, -⟩⟩ := phaseStep_ok hs
    · rw [Phasor.crosses, hp] at hcross
      exact nomatch hle.symm.trans hcross
    · exact hcommit p _ n hp hs hpending

theorem phasorUpdate_faults (hisr : positiveFinite Config.core isr = true) (ha : a.Kept true) :
    a.Faults isr (a.nextPeriod.isSome = true ∧ a.nextVolume.isSome = true)
      (phasorUpdate Config.core isr a = .error ·) :=
  Phasor.faults_of_phaseStep hisr ha (fun _ _ hp hs => phasorUpdate_error hp hs) fun _ _ _ hp hs hpending => by
    have hnone : a.nextPeriod = none ∨ a.nextVolume = none := by
      simpa only [not_and_or, Option.not_isSome_iff_eq_none] using hpending
    exact (phasorUpdate_crossing hp hs).trans (bind_error (commitPhasor_unwritten hnone _))

theorem pulseUpdate_faults {g : Pulse} (hisr : positiveFinite Config.core isr = true) (hg : g.acc.Kept true) :
    g.acc.Faults isr (g.acc.nextPeriod.isSome = true ∧ g.acc.nextVolume.isSome = true ∧ g.nextDuty.isSome = true)
      (pulseUpdate Config.core isr g = .error ·) :=
  Phasor.faults_of_phaseStep hisr hg (fun _ _ hp hs => pulseUpdate_error hp hs) fun _ _ _ hp hs hpending => by
    have hnone : (g.acc.nextPeriod = none ∨ g.acc.nextVolume = none) ∨ g.nextDuty = none := by
      simpa only [not_and_or, Option.not_isSome_iff_eq_none, or_assoc] using hpending
    exact (pulseUpdate_crossing hp hs).trans (bind_error (commitPulse_unwritten hnone _))

end

/-! ## DSMP (R170, R171) -/

section
variable {isr : F32} {g : Dsmp} {l : DirectLoop}

/-- Once the queue is used up and an iteration leaves the phase as it was, every later one does. -/
theorem Dsmp.exceeds_of_stalled {k : Nat} (hk : g.queue.length ≤ k)
    (hstall : g.phaseAfter isr (k + 1) = g.phaseAfter isr k) (hexceeds : ∀ j ≤ k, g.exceeds isr j = true) (j : Nat) :
    g.exceeds isr j = true := by
  have hcur {j : Nat} (hj : k ≤ j) : g.curAfter j = g.curAfter k := by
    rw [Dsmp.curAfter, Dsmp.curAfter, List.take_of_length_le hk, List.take_of_length_le (hk.trans hj)]
  have hphase {j : Nat} (hj : k ≤ j) : g.phaseAfter isr j = g.phaseAfter isr k := by
    induction j, hj using Nat.le_induction with
    | base => rfl
    | succ j hj ih => rw [Dsmp.phaseAfter, ih, hcur hj, ← Dsmp.phaseAfter, hstall]
  rcases Nat.le_total j k with hj | hj
  · exact hexceeds j hj
  · rw [Dsmp.exceeds, hphase hj, hcur hj]
    exact hexceeds k le_rfl

variable (hisr : positiveFinite Config.core isr = true)
include hisr

/-- Subtracting the current period from a larger phase does not overflow. -/
theorem DirectLoop.Kept.fsub_eq (hl : l.Kept) (hlt : F32.lt (l.cur.period isr) l.ph = true) :
    fsub Config.core l.ph (l.cur.period isr) = .ok (F32.sub l.ph (l.cur.period isr)) := by
  obtain ⟨hph, hcur, -⟩ := hl
  obtain ⟨hphfin, -⟩ := nonnegFinite_iff.mp hph
  obtain ⟨hpfin, hp0⟩ := positiveFinite_iff.mp (positiveFinite_currentPeriod hcur hisr)
  have hle := F32.units_le_of_le (F32.le_of_lt hlt)
  refine numeric_of_isFinite ((F32.isRounding_sub hphfin hpfin).isFinite_of_abs_le hphfin (abs_le_abs_of_nonneg ?_ ?_))
  · exact sub_nonneg.mpr (by exact_mod_cast hle)
  · exact sub_le_self _ (by exact_mod_cast hp0.le)

/-- A loop whose phase always exceeds the period uses up the iterations it is allowed. -/
theorem directLoop_endless {room j : Nat} (hkept : (g.loopAfter isr j).Kept) (hm : (g.loopAfter isr j).Moderate)
    (hexceeds : ∀ j, g.exceeds isr j = true) :
    directLoop Config.core isr room (g.loopAfter isr j) = .error .countOverflow := by
  induction room generalizing j with
  | zero =>
    rw [directLoop_zero_of_lt (hexceeds j), hkept.fsub_eq hisr (hexceeds j)]
    rfl
  | succ room ih =>
    obtain ⟨hnext, hkept', hm'⟩ := directLoop_iterates hisr hkept hm (hexceeds j) room
    have hsucc := Dsmp.loopAfter_succ isr g j
    rw [hnext]
    exact hsucc ▸ ih (hsucc ▸ hkept') (hsucc ▸ hm')

/-- A loop that ends after its first iteration: the sum is one value. -/
theorem directLoop_once (hkept : (g.loopAfter isr 0).Kept) (h0 : g.exceeds isr 0 = true)
    (h1 : g.exceeds isr 1 = false) (room : Nat) :
    directLoop Config.core isr (room + 1) (g.loopAfter isr 0) = .ok (g.loopAfter isr 1) := by
  have hsub := hkept.fsub_eq hisr h0
  obtain ⟨-, hcur, hqueue⟩ := hkept
  have hvalue := isFinite_currentValue (dequeue_entries_ok hcur hqueue).1
  have hsum := F32.isRounding_add isFinite_fZero hvalue
  rw [units_fZero, Int.cast_zero, zero_add] at hsum
  have hadd : fadd Config.core (g.loopAfter isr 0).sum _ = _ := numeric_of_isFinite (hsum.units_eq hvalue).1
  rw [directLoop_succ_of_lt h0, bind_of_ok hsub, bind_of_ok hadd]
  have hsucc := Dsmp.loopAfter_succ isr g 0
  exact hsucc ▸ directLoop_of_not_lt (l := g.loopAfter isr 1) h1 room

theorem Dsmp.loopAfter_zero_kept (hg : g.Kept (some isr)) (hfin : F32.isFinite (g.phaseAfter isr 0) = true) :
    (g.loopAfter isr 0).Kept := by
  obtain ⟨hround, hz⟩ := isRounding_advance hg.phase hisr
  exact ⟨nonnegFinite_of_isRounding hround hfin hz, hg.cur, hg.queue⟩

theorem dsmpUpdate_countOverflow {k : Nat} (hg : g.Kept (some isr)) (hk : g.queue.length ≤ k)
    (hfin : F32.isFinite (g.phaseAfter isr 0) = true) (hexceeds : ∀ j ≤ k, g.exceeds isr j = true)
    (hstall : g.phaseAfter isr (k + 1) = g.phaseAfter isr k) (hcur : moderate g.cur.value = true)
    (hqueue : g.queue.all (fun e => moderate e.value) = true) :
    dsmpUpdate Config.core isr g = .error .countOverflow := by
  have hloop := directLoop_endless (room := Config.core.nMax) hisr (Dsmp.loopAfter_zero_kept hisr hg hfin)
    ⟨Nat.zero_le _, hcur, hqueue⟩ (Dsmp.exceeds_of_stalled hk hstall hexceeds)
  exact (bind_of_ok (numeric_of_isFinite hfin)).trans (bind_error hloop)

theorem dsmpUpdate_unwrittenParam (hg : g.Kept (some isr)) (hfin : F32.isFinite (g.phaseAfter isr 0) = true)
    (h0 : g.exceeds isr 0 = true) (h1 : g.exceeds isr 1 = false) (hnone : g.nextVolume = none) :
    dsmpUpdate Config.core isr g = .error .unwrittenParam := by
  obtain ⟨room, hroom⟩ : ∃ room, Config.core.nMax = room + 1 := ⟨2147483646, rfl⟩
  have hloop := hroom ▸ directLoop_once hisr (Dsmp.loopAfter_zero_kept hisr hg hfin) h0 h1 room
  have hcommit : readWritten g.nextVolume = .error .unwrittenParam := congrArg readWritten hnone
  refine (bind_of_ok (numeric_of_isFinite hfin)).trans ((bind_of_ok hloop).trans ?_)
  exact bind_error (bind_error hcommit)

end

/-! ## The update of a channel -/

/-- The update of the generator a channel names fails with this cause. -/
def State.UpdateFails (isr : F32) (s : State) : Channel → Cause → Prop
  | .p1, cause => pulseUpdate Config.core isr s.p1 = .error cause
  | .p2, cause => pulseUpdate Config.core isr s.p2 = .error cause
  | .tri, cause => phasorUpdate Config.core isr s.tri = .error cause
  | .noise, cause => phasorUpdate Config.core isr s.noise.acc = .error cause
  | .smp, cause => phasorUpdate Config.core isr s.smp.acc = .error cause
  | .dsmp, cause => dsmpUpdate Config.core isr s.dsmp = .error cause

/-- A get begins with its update. -/
theorem tick_of_updateFails {isr : F32} {s : State} {ch : Channel} {cause : Cause} (h : s.UpdateFails isr ch cause) :
    tick Config.core isr ch s = .error cause := by
  cases ch <;> exact bind_error (bind_error h)

/-- Each channel with a period of its own, with its shared registers. -/
def State.accumulators (s : State) : List (Channel × Phasor) :=
  [(.p1, s.p1.acc), (.p2, s.p2.acc), (.tri, s.tri), (.noise, s.noise.acc), (.smp, s.smp.acc)]

theorem accumulator_faults {isr : F32} {s : State} (hs : s.Inv) (hinit : s.initDone = true)
    (hisr : positiveFinite Config.core isr = true) :
    ∀ row ∈ s.accumulators, row.2.Faults isr (s.Pending row.1) (s.UpdateFails isr row.1) := by
  simp only [State.accumulators, List.forall_mem_cons]
  exact ⟨pulseUpdate_faults hisr (hinit ▸ hs.p1.acc), pulseUpdate_faults hisr (hinit ▸ hs.p2.acc),
    phasorUpdate_faults hisr (hinit ▸ hs.tri), phasorUpdate_faults hisr (hinit ▸ hs.noise.acc),
    phasorUpdate_faults hisr (hinit ▸ hs.smp.acc), nofun⟩

end Sys2Proof.Machine
end

section
/-! The faults of GET and MIX (44_mixer.md R233, R236, 60_exceptions.md R264 to R266; O20): a GET has the fault of its get,
a MIX that of the first get that fails, of its sum, or of a filter. -/

namespace Sys2Proof.Machine

theorem error_of_map_error {ε α β : Type} {x : Except ε α} {f : α → β} {e : ε} (h : x.map f = .error e) :
    x = .error e := by
  cases x with
  | error _ => exact congrArg Except.error (Except.error.inj h)
  | ok _ => exact nomatch h

theorem ok_of_map_snd {ε α β : Type} {x : Except ε (α × β)} {b : β} (h : x.map Prod.snd = .ok b) :
    ∃ a, x = .ok (a, b) := by
  cases x with
  | error _ => exact nomatch h
  | ok r => exact ⟨r.1, congrArg (fun b => Except.ok (r.1, b)) (Except.ok.inj h)⟩

/-! ## The first get that fails (R233) -/

/-- The first of these gets that fails fails with this cause: those before it answer outputs. -/
def FirstFault (gets : List (Channel × Except Cause F32)) (cause : Cause) : Prop :=
  ∃ done ch rest, gets = done ++ (ch, .error cause) :: rest ∧ ∀ g ∈ done, ∃ o, g.2 = .ok o

theorem not_firstFault_nil {cause : Cause} : ¬ FirstFault [] cause := by
  rintro ⟨done, ch, rest, h, -⟩
  exact List.append_ne_nil_of_right_ne_nil done (List.cons_ne_nil _ _) h.symm

/-- A sequence of gets fails with the first fault: that of its first get, or else that of the others. -/
theorem FirstFault.bind {α β : Type} {ch : Channel} {gets : List (Channel × Except Cause F32)} {cause : Cause}
    {x : Except Cause (α × F32)} {f : α × F32 → Except Cause β} (h : FirstFault ((ch, x.map Prod.snd) :: gets) cause)
    (hf : ∀ r, FirstFault gets cause → f r = .error cause) : (x >>= f) = .error cause := by
  obtain ⟨done, ch', rest, heq, hdone⟩ := h
  cases done with
  | nil =>
    obtain ⟨hhead, -⟩ := List.cons.inj heq
    exact bind_error (error_of_map_error (Prod.mk.inj hhead).2)
  | cons g done =>
    obtain ⟨rfl, hrest⟩ := List.cons.inj heq
    obtain ⟨⟨o, ho⟩, hdone⟩ := List.forall_mem_cons.mp hdone
    obtain ⟨a, ha⟩ := ok_of_map_snd ho
    exact (bind_of_ok ha).trans (hf _ ⟨done, ch', rest, hrest, hdone⟩)

/-! ## The bodies of GET and MIX (R233, R236) -/

section
variable {c : Config} {s : State} {isr : F32} (hinit : s.initDone = true) (hsr : s.invSr = some isr)
include hinit hsr

theorem getBody_of_tick_error {ch : Channel} {cause : Cause} (h : tick c isr ch s = .error cause) :
    getBody c ch s = .error cause :=
  (bind_of_ok (requireInit_ok.mpr ⟨hinit, hsr⟩)).trans (bind_error h)

/-- Each get of a MIX reads its own generator alone (R233). -/
theorem mixBody_eq_gets :
    mixBody c s = pulseGet c isr s.p1 >>= fun r0 => pulseGet c isr s.p2 >>= fun r1 => triGet c isr s.tri >>= fun r2 =>
      noiseGet c isr s.noise >>= fun r3 => smpGet c isr s.smp >>= fun r4 => dsmpGet c isr s.dsmp >>= fun r5 =>
      weightedMean c r0.2 r1.2 r2.2 r3.2 r4.2 r5.2 >>= fun m =>
      filterChain c { s with p1 := r0.1, p2 := r1.1, tri := r2.1, noise := r3.1, smp := r4.1, dsmp := r5.1 } m >>=
      fun r => .ok (putResult (clamp c r.2) r.1) := by
  refine (bind_of_ok (requireInit_ok.mpr ⟨hinit, hsr⟩)).trans ?_
  simp only [tickP1, tickP2, tickTri, tickNoise, tickSmp, tickDsmp, bind_assoc]
  rfl

end

/-! ## The sum and the filters of a MIX (R203, R204, R231) -/

theorem checked_of_exists_not_isFinite {c : Config} {rs : List F32} (h : ∃ x ∈ rs, c.num.isFinite x = false) (r : F32) :
    checked c rs r = .error .numeric :=
  if_neg fun hall => by
    obtain ⟨x, hx, hfin⟩ := h
    exact Bool.false_ne_true (hfin.symm.trans (List.all_eq_true.mp hall x hx))

/-- A sequence that fails fails at one of its parts. -/
theorem bind_error_cases {ε α β : Type} {x : Except ε α} {f : α → Except ε β} {e : ε} (h : (x >>= f) = .error e) :
    x = .error e ∨ ∃ a, x = .ok a ∧ f a = .error e := by
  cases x with
  | error _ => exact .inl (congrArg Except.error (Except.error.inj h))
  | ok a => exact .inr ⟨a, rfl, h⟩

/-- The filters read no generator. -/
theorem filterChain_error_of_filters {c : Config} {s t : State} {m : F32} {cause : Cause} (h0 : t.f0 = s.f0)
    (h1 : t.f1 = s.f1) (h2 : t.f2 = s.f2) (h : filterChain c s m = .error cause) : filterChain c t m = .error cause := by
  obtain h | ⟨r0, hr0, h⟩ := bind_error_cases h
  · exact bind_error (h0 ▸ h)
  refine (bind_of_ok (h0 ▸ hr0)).trans ?_
  obtain h | ⟨r1, hr1, h⟩ := bind_error_cases h
  · exact bind_error (h1 ▸ h)
  refine (bind_of_ok (h1 ▸ hr1)).trans ?_
  obtain h | ⟨r2, -, h⟩ := bind_error_cases h
  · exact bind_error (h2 ▸ h)
  · exact nomatch h

/-- After six gets that succeed a MIX is its sum, and then its filters. -/
theorem mixBody_fails {s : State} {isr : F32} {p1 p2 : Pulse} {tri : Phasor} {noise : Noise} {smp : Smp} {dsmp : Dsmp}
    {o0 o1 o2 o3 o4 o5 : F32} {cause : Cause} (hinit : s.initDone = true) (hsr : s.invSr = some isr)
    (h0 : pulseGet Config.core isr s.p1 = .ok (p1, o0)) (h1 : pulseGet Config.core isr s.p2 = .ok (p2, o1))
    (h2 : triGet Config.core isr s.tri = .ok (tri, o2)) (h3 : noiseGet Config.core isr s.noise = .ok (noise, o3))
    (h4 : smpGet Config.core isr s.smp = .ok (smp, o4)) (h5 : dsmpGet Config.core isr s.dsmp = .ok (dsmp, o5))
    (h : weightedMean Config.core o0 o1 o2 o3 o4 o5 = .error cause ∨
      ∃ m, weightedMean Config.core o0 o1 o2 o3 o4 o5 = .ok m ∧ filterChain Config.core s m = .error cause) :
    mixBody Config.core s = .error cause := by
  refine (mixBody_eq_gets hinit hsr).trans ?_
  rw [bind_of_ok h0, bind_of_ok h1, bind_of_ok h2, bind_of_ok h3, bind_of_ok h4, bind_of_ok h5]
  obtain hsum | ⟨m, hm, hfilter⟩ := h
  · exact bind_error hsum
  · exact (bind_of_ok hm).trans (bind_error (filterChain_error_of_filters (s := s) rfl rfl rfl hfilter))

/-- Settles O20: a GET and a MIX record the fault of the first part of their body that fails, and where the registers
keep the invariants they decide whether the update of a get fails. -/
theorem tickFaultsRecordTheirCause : Obligations.TickFaultsRecordTheirCause := by
  intro s isr hs hinit hsr faults out gets
  have get {ch : Channel} {cause : Cause} (h : tick Config.core isr ch s = .error cause) :
      faults (.get ch) cause.code := exec_of_commandBody_error hs (getBody_of_tick_error hinit hsr h)
  have mix {cause : Cause} (h : mixBody Config.core s = .error cause) : faults .mix cause.code :=
    exec_of_commandBody_error (i := .mix) hs h
  refine ⟨fun ch cause h => get ?_, fun done ch cause rest hgets hdone => mix ?_, fun o0 o1 o2 o3 o4 o5 hgets => ?_,
    fun hinv => ?_⟩
  · simp only [gets, List.mem_cons, Prod.mk.injEq, List.not_mem_nil, or_false] at h
    obtain ⟨rfl, h⟩ | ⟨rfl, h⟩ | ⟨rfl, h⟩ | ⟨rfl, h⟩ | ⟨rfl, h⟩ | ⟨rfl, h⟩ := h <;>
      exact bind_error (error_of_map_error h.symm)
  · have hfirst : FirstFault gets cause := ⟨done, ch, rest, hgets, hdone⟩
    exact (mixBody_eq_gets hinit hsr).trans (hfirst.bind fun _ h => h.bind fun _ h => h.bind fun _ h =>
      h.bind fun _ h => h.bind fun _ h => h.bind fun _ h => absurd h not_firstFault_nil)
  · intro half s1 s2 s3 s4 s5 m sums
    simp only [gets, List.map_cons, List.map_nil, List.cons.injEq, and_true] at hgets
    obtain ⟨h0, h1, h2, h3, h4, h5⟩ := hgets
    obtain ⟨p1, h0⟩ := ok_of_map_snd h0
    obtain ⟨p2, h1⟩ := ok_of_map_snd h1
    obtain ⟨tri, h2⟩ := ok_of_map_snd h2
    obtain ⟨noise, h3⟩ := ok_of_map_snd h3
    obtain ⟨smp, h4⟩ := ok_of_map_snd h4
    obtain ⟨dsmp, h5⟩ := ok_of_map_snd h5
    have hmean := weightedMean_eq_checked Config.core o0 o1 o2 o3 o4 o5
    simp only [core_num, binary32_weightTone, binary32_weightNoise, binary32_weightSample, binary32_weightSum] at hmean
    have fails := mixBody_fails (cause := .numeric) hinit hsr h0 h1 h2 h3 h4 h5
    exact ⟨fun hsums => mix (fails (.inl (hmean.trans (checked_of_exists_not_isFinite hsums m)))),
      fun hsums hfilter => mix (fails (.inr ⟨m, hmean.trans (checked_of_forall_isFinite hsums m), hfilter⟩))⟩
  · have hisr := (Option.all_eq_true _ _).mp hinv.invSr isr hsr
    have hdsmp : s.dsmp.Kept (some isr) := hsr ▸ hinv.dsmp
    have update {ch : Channel} {cause : Cause} (h : s.UpdateFails isr ch cause) : faults (.get ch) cause.code :=
      get (tick_of_updateFails h)
    refine ⟨fun row hrow => ?_, fun hfin => ?_, fun k hk hfin hexceeds hstall hcur hqueue => ?_,
      fun hfin h0 h1 hpending => ?_⟩
    · have hrow := accumulator_faults hinv hinit hisr row hrow
      exact ⟨fun hfin => update (hrow.numeric hfin),
        fun p hp hfin hcount => update (hrow.countOverflow p hp hfin hcount),
        fun hcross hcount hpending => update (hrow.unwrittenParam hcross hcount hpending)⟩
    · exact update (ch := .dsmp) (bind_error (numeric_of_not_isFinite hfin))
    · exact update (ch := .dsmp) (dsmpUpdate_countOverflow hisr hdsmp hk hfin hexceeds hstall hcur hqueue)
    · have hnone := Option.not_isSome_iff_eq_none.mp hpending
      exact update (ch := .dsmp) (dsmpUpdate_unwrittenParam hisr hdsmp hfin h0 h1 hnone)

end Sys2Proof.Machine
end

section
/-! Reset (70_reset_and_hazards.md R290, R293): the power-on values (O55), and the first update after INIT, which advances
the phase +0.0 by INV_SR into a period of INV_SR (O21). -/

namespace Sys2Proof.F32

theorem units_neg_iff {x : F32} (h0 : units x ≠ 0) : units x < 0 ↔ signBit x = true := by
  rw [← not_le, units_nonneg_iff]
  simp [units_eq_zero_iff.not.mp h0]

theorem ofUnits_units {x : F32} (hx : isFinite x = true) (h0 : units x ≠ 0) : ofUnits (units x) = x := by
  simp [ofUnits, units_neg_iff h0, natAbs_units, roundMag_magUnits hx, pack_signBit_magBits]

/-- A sum with +0.0 is exact. -/
theorem add_fZero_left {x : F32} (hx : isFinite x = true) (h0 : units x ≠ 0) : add fZero x = x := by
  rw [add_of_isFinite (by decide) hx, show units fZero = 0 by decide, zero_add, if_neg h0, ofUnits_units hx h0]

end Sys2Proof.F32

namespace Sys2Proof.Machine

/-! ## Power-on (R290) -/

/-- Settles O55: `State.reset` is built from the values of R290. -/
theorem powerOnState : Obligations.PowerOnState :=
  ⟨rfl, rfl, rfl, rfl, rfl, fun _ => List.eq_of_mem_replicate (n := 5), rfl, rfl, rfl, rfl, rfl, rfl, rfl, rfl, rfl, rfl,
    rfl, fun _ => List.eq_of_mem_replicate (n := 2), rfl, rfl, rfl⟩

/-! ## The first update after INIT (R293, R110 to R113) -/

section
variable {isr : F32} (hisr : positiveFinite Config.core isr = true)
include hisr

theorem add_fZero_of_positiveFinite : F32.add fZero isr = isr :=
  have ⟨hfin, hpos⟩ := positiveFinite_iff.mp hisr
  F32.add_fZero_left hfin hpos.ne'

theorem le_refl_of_positiveFinite : F32.le isr isr = true :=
  have ⟨hfin, _⟩ := positiveFinite_iff.mp hisr
  (F32.le_iff_units hfin hfin).mpr le_rfl

/-- From +0.0 the phase advances to exactly one whole period of INV_SR. -/
theorem phaseStep_from_fZero : phaseStep Config.core isr fZero isr = .ok (isr, some 1) := by
  obtain ⟨hfin, hpos⟩ := positiveFinite_iff.mp hisr
  have hcount : F32.floorQuot isr isr = some 1 := floorQuot_of_bounds hpos (by omega) (by omega)
  have hstep := phaseStep_crossing (c := Config.core) (add_fZero_of_positiveFinite hisr) hfin
    (le_refl_of_positiveFinite hisr) hcount
  exact hstep.trans (if_neg (by decide))

theorem isFinite_fmod_of_positiveFinite {p : F32} (hp : positiveFinite Config.core p = true) :
    F32.isFinite (F32.fmod isr p) = true :=
  have ⟨hfin, _⟩ := positiveFinite_iff.mp hisr
  have ⟨hpfin, hpos⟩ := positiveFinite_iff.mp hp
  (F32.units_fmod hfin hpfin hpos.ne').2

end

/-- Settles O21: every accumulator after INIT has phase +0.0 and period INV_SR, so its update is the crossing of O18 with
`n = 1`; DSMP is IDLE, and its phase then reaches the period INV_SR without exceeding it. -/
theorem firstTickAfterInitCommits : Obligations.FirstTickAfterInitCommits := by
  intro sr s t h ht
  obtain ⟨-, hbody⟩ := serving_of_exec h ht
  obtain ⟨isr, f0, f1, f2, hsr, -, -, -, rfl⟩ := initBody_ok hbody
  obtain ⟨-, hisr⟩ := sampleRatePeriod_ok hsr
  obtain ⟨hfin, hpos⟩ := positiveFinite_iff.mp hisr
  have hadd := add_fZero_of_positiveFinite hisr
  have update {p : F32} (v : F32) (hp0 : F32.gt p fZero = true) (hpfin : F32.isFinite p = true) :=
    updateAtCrossingCommitsAndWraps Config.core isr isr isr p v 1 rfl hfin (le_refl_of_positiveFinite hisr) hpos
      (by omega) (by omega) (by decide)
      (isFinite_fmod_of_positiveFinite hisr (by rw [positiveFinite_core, hp0, hpfin]; rfl))
  refine ⟨isr, rfl, ?_, ?_, ?_, ?_⟩
  · exact List.forall_mem_map (f := initPhasor isr) (l := [s.p1.acc, s.p2.acc, s.tri, s.noise.acc, s.smp.acc]).mpr
      fun a _ => ⟨initPhasor_period isr a, phaseStep_from_fZero hisr⟩
  · refine List.forall_mem_map (f := initPhasor isr) (l := [s.tri, s.noise.acc, s.smp.acc]).mpr ?_
    intro a _ p v hp hv hp0 hpfin
    obtain ⟨phasor, -⟩ := update v hp0 hpfin
    exact phasor _ hadd rfl hp hv
  · refine List.forall_mem_map (f := initPulse isr) (l := [s.p1, s.p2]).mpr ?_
    intro g _ p v d hp hv hd hp0 hpfin
    obtain ⟨-, pulse⟩ := update v hp0 hpfin
    exact pulse _ d hadd rfl hp hv hd
  · change F32.gt (F32.add fZero isr) isr = false
    rw [hadd]
    exact F32.lt_irrefl isr

end Sys2Proof.Machine
end

section
/-! GET against MIX (70_reset_and_hazards.md R302; O52). -/

namespace Sys2Proof.Machine

theorem mixBody_initDone {c : Config} {s t : State} (h : mixBody c s = .ok t) : s.initDone = true := by
  obtain ⟨isr, hrequire, -⟩ := bind_ok.mp h
  exact (requireInit_ok.mp hrequire).1

/-- Settles O52: a MIX runs every get on the generator's own registers, and a GET that runs one of them succeeds with
the same registers. -/
theorem getAndMixTickAlike : Obligations.GetAndMixTickAlike := by
  intro s t hs h ht
  have hbody := commandBody_of_exec hs h ht
  obtain ⟨isr, hisr, hgets⟩ := mixBody_gets hbody
  obtain ⟨p1, p2, tri, noise, smp, dsmp⟩ := getRunsOneGenerator s isr hs (mixBody_initDone hbody) hisr
  exact ⟨⟨_, p1 _ _ (hgets .p1), hs, rfl⟩, ⟨_, p2 _ _ (hgets .p2), hs, rfl⟩, ⟨_, tri _ _ (hgets .tri), hs, rfl⟩,
    ⟨_, noise _ _ (hgets .noise), hs, rfl⟩, ⟨_, smp _ _ (hgets .smp), hs, rfl⟩, ⟨_, dsmp _ _ (hgets .dsmp), hs, rfl⟩⟩

end Sys2Proof.Machine
end
